-- ==== Sys2Proof/Word.lean ====
section
/-! DEFINITION. The widths of spec/00_scope.md R12, and the names of the contexts, the channels and the queues. -/

namespace Sys2Proof

/-- A word: WORD_W = 16 bits (R9, R12). -/
abbrev Word := BitVec 16

/-- A symbol: bits 7..0 the data, bit 8 the 9th bit (R12, R140). -/
abbrev Symbol := BitVec 9

/-- A byte (R12). -/
abbrev Byte := BitVec 8

/-- A command word, one length, 32 bits (R148). -/
abbrev Command := BitVec 32

/-- The three contexts that issue commands (R15, R16). -/
inductive Ctx where
  | main
  | lp
  | hp
deriving DecidableEq, Repr

/-- The channel numbers a well-formed command can name (R150, format C). -/
inductive Chan where
  | ch0
  | ch1
deriving DecidableEq, Repr

/-- The two FIFO instances: TXQ is queue 0, RXQ is queue 1 (R32). -/
inductive Queue where
  | txq
  | rxq
deriving DecidableEq, Repr

/-- The channel's number (R150). -/
def Chan.num : Chan → Nat
  | .ch0 => 0
  | .ch1 => 1

end Sys2Proof
end

