-- ==== Sys2Proof/Config.lean ====
section
/-! DEFINITION. The configuration record CFG of spec/00_scope.md R9, its reference values and constraints, and the one
free value of the model: the choices of the scheduler, the bus and the host. -/

namespace Sys2Proof

/-- The configuration record (R9). A field the spec marks OPEN keeps no value here: every statement about every state is
about every configuration (log 1). -/
structure Cfg where
  /-- WORD_W, the width of a word; 16 is its one legal value, the width of the type Word (R9, R12; log 18). -/
  wordW : Nat
  /-- CAPACITY, slots per FIFO instance. -/
  capacity : Nat
  /-- NUM_CH, channels present. -/
  numCh : Nat
  /-- HAS_DIR[0]. -/
  hasDir0 : Bool
  /-- HAS_DIR[1]. -/
  hasDir1 : Bool
  /-- F_CLK in Hz (OPEN). -/
  fClk : Nat
  /-- BAUD_DEFAULT; no rule reads it (log 18). -/
  baudDefault : Nat
  /-- TURNAROUND; no rule reads it (R520, log 18). -/
  turnaround : Nat
  /-- RXBUF_DEPTH (OPEN). -/
  rxbufDepth : Nat
  /-- MAX_SLOTS (OPEN). -/
  maxSlots : Nat
  /-- FERR_BIT. -/
  ferrBit : Nat
  /-- OERR_BIT. -/
  oerrBit : Nat
  /-- NODATA_BIT. -/
  nodataBit : Nat
  /-- CRC_POLY (OPEN). -/
  crcPoly : Word
  /-- CRC_INIT (OPEN). -/
  crcInit : Word
  /-- CRC_REFIN (OPEN). -/
  crcRefin : Bool
  /-- CRC_REFOUT (OPEN). -/
  crcRefout : Bool
  /-- CRC_XOROUT (OPEN). -/
  crcXorout : Word
  /-- CRC_IN_BITS (OPEN). -/
  crcInBits : Nat
  /-- PREAMBLE, the first core word of every frame; 0x01FF in R9 and R363, any word here (log 28). -/
  preamble : Word
  /-- OPC_DISC (OPEN). -/
  opcDisc : Word
  /-- OPC_CHOOSE (OPEN). -/
  opcChoose : Word
  /-- OPC_POLL (OPEN). -/
  opcPoll : Word
  /-- DISC_P0 (OPEN). -/
  discP0 : Word
  /-- DISC_P1 (OPEN). -/
  discP1 : Word
  /-- LEN_FN(DISC, 5), the one value of LEN_FN the rules use for DISC (OPEN; R363, log 17). -/
  lenDisc : Word
  /-- LEN_FN(CHOOSE, 4) (OPEN; R363, log 17). -/
  lenChoose : Word
  /-- LEN_FN(POLL, 4) (OPEN; R363, log 17). -/
  lenPoll : Word
  /-- TX9_STICKY. -/
  tx9Sticky : Bool
  /-- PRIO_RX (OPEN). -/
  prioRx : Bool
  /-- PRIO_TX (OPEN). -/
  prioTx : Bool
  /-- TX_CH, the channel the LP drain transmits on. -/
  txCh : Chan
  /-- RX_CH, the channel DSP.POLL reads. -/
  rxCh : Chan
  /-- PROD[TXQ]. -/
  prodTxq : Ctx
  /-- PROD[RXQ]. -/
  prodRxq : Ctx
  /-- CONS[TXQ]. -/
  consTxq : Ctx
  /-- CONS[RXQ]. -/
  consRxq : Ctx
deriving DecidableEq, Repr

/-- The value column of R9, with REF where the field is OPEN. -/
def Cfg.ref : Cfg where
  wordW := 16
  capacity := 16
  numCh := 2
  hasDir0 := true
  hasDir1 := false
  fClk := 16000000
  baudDefault := 19200
  turnaround := 100
  rxbufDepth := 2
  maxSlots := 4
  ferrBit := 12
  oerrBit := 13
  nodataBit := 14
  crcPoly := 0x1021
  crcInit := 0xFFFF
  crcRefin := false
  crcRefout := false
  crcXorout := 0x0000
  crcInBits := 16
  preamble := 0x01FF
  opcDisc := 0x001
  opcChoose := 0x002
  opcPoll := 0x003
  discP0 := 0x000
  discP1 := 0x000
  lenDisc := 5
  lenChoose := 4
  lenPoll := 4
  tx9Sticky := false
  prioRx := false
  prioTx := false
  txCh := .ch0
  rxCh := .ch0
  prodTxq := .main
  prodRxq := .main
  consTxq := .lp
  consRxq := .main

/-- HAS_DIR[ch] (R9). -/
def Cfg.hasDir (g : Cfg) : Chan → Bool
  | .ch0 => g.hasDir0
  | .ch1 => g.hasDir1

/-- PROD[q]: the one context that may enqueue (R9, R206). -/
def Cfg.prod (g : Cfg) : Queue → Ctx
  | .txq => g.prodTxq
  | .rxq => g.prodRxq

/-- CONS[q]: the one context that may dequeue (R9, R206). -/
def Cfg.cons (g : Cfg) : Queue → Ctx
  | .txq => g.consTxq
  | .rxq => g.consRxq

/-- Channel `ch` is present: ch < NUM_CH (R9, R153). -/
def Cfg.present (g : Cfg) (ch : Chan) : Bool :=
  decide (ch.num < g.numCh)

/-- The three in-band fault bits are distinct and in 12..15 (R9). -/
def Cfg.faultBitsOk (g : Cfg) : Bool :=
  decide (12 ≤ g.ferrBit) && decide (g.ferrBit ≤ 15) && decide (12 ≤ g.oerrBit) && decide (g.oerrBit ≤ 15) &&
    decide (12 ≤ g.nodataBit) && decide (g.nodataBit ≤ 15) && decide (g.ferrBit ≠ g.oerrBit) &&
    decide (g.ferrBit ≠ g.nodataBit) && decide (g.oerrBit ≠ g.nodataBit)

/-- OPC_*, DISC_P* and every LEN_FN value are below 0x200 (R9). -/
def Cfg.frameWordsOk (g : Cfg) : Bool :=
  [g.opcDisc, g.opcChoose, g.opcPoll, g.discP0, g.discP1, g.lenDisc, g.lenChoose, g.lenPoll].all
    fun w => decide (w.toNat < 0x200)

/-- The constraints a model checks on CFG, the paragraph after the table of R9, and WORD_W = 16 (R12; log 18). A field with
a fixed value in R9 that this paragraph does not name, PREAMBLE among them, may have any value (log 28). -/
def Cfg.ok (g : Cfg) : Bool :=
  decide (g.wordW = 16) && decide (2 ≤ g.capacity) && (decide (g.numCh = 1) || decide (g.numCh = 2)) &&
    decide (1 ≤ g.rxbufDepth) && decide (1 ≤ g.maxSlots) && decide (g.maxSlots ≤ 255) && g.faultBitsOk &&
    decide (1 ≤ g.crcInBits) && decide (g.crcInBits ≤ 16) && g.frameWordsOk && g.present g.txCh && g.present g.rxCh

/-- What may happen next, chosen outside the block (R73, R115): which agent steps, what the bus delivers, and what the
host issues. -/
inductive Choice where
  /-- The processor: the interrupt controller if an entry is enabled, else the active context (R459, R460). -/
  | proc
  /-- The tick timer TMR (R476). -/
  | tmr
  /-- LINE[ch]: the shifter takes the held byte (R252). -/
  | load (ch : Chan)
  /-- LINE[ch]: the shift completes (R253). -/
  | shift (ch : Chan)
  /-- LINE[ch]: a symbol arrives with its framing flag (R262). -/
  | arrive (ch : Chan) (sym : Symbol) (fe : Bool)
  /-- The host issues one more command to MAIN (R73, R502). -/
  | host (c : Command)
deriving DecidableEq, Repr, Inhabited

/-- The free value: the n-th choice nobody has fixed beforehand. It has no body, so a theorem about it holds for every
schedule, every delivered symbol and every host (DESIGN CHOICE, safe: log 2). -/
opaque Config.schedule : Nat → Choice

end Sys2Proof
end

