-- ==== Sys2Proof/Syntax.lean ====
section
/-! DEFINITION. The commands of spec/30_encoding.md R151, one constructor for each of the 22 rows of spec/opcode_table.json,
and the fault codes of spec/60_exceptions.md R450. -/

namespace Sys2Proof

/-- One command with its decoded operands (R150, R155). -/
inductive Instr where
  /-- FQ.INIT (R201). -/
  | fqInit (q : Queue)
  /-- FQ.ENQ (R202). -/
  | fqEnq (q : Queue) (word : Word)
  /-- FQ.DEQ (R203). -/
  | fqDeq (q : Queue)
  /-- FQ.EMPTY (R204). -/
  | fqEmpty (q : Queue)
  /-- FQ.FULL (R205). -/
  | fqFull (q : Queue)
  /-- U.INIT (R241). -/
  | uInit (ch : Chan) (nine : Bool) (intmode : Bool) (baud : Word)
  /-- U.TXW (R243). -/
  | uTxw (ch : Chan) (word : Word)
  /-- U.RXAV (R248). -/
  | uRxav (ch : Chan)
  /-- U.RXW (R249). -/
  | uRxw (ch : Chan)
  /-- U.TXRDY (R251). -/
  | uTxrdy (ch : Chan)
  /-- DM.FEED (R301). -/
  | dmFeed (word : Word)
  /-- FB.BUILD (R365). -/
  | fbBuild
  /-- FB.RDW (R366). -/
  | fbRdw (idx : BitVec 9) (wire : BitVec 4)
  /-- FB.LEN (R367). -/
  | fbLen (idx : BitVec 9)
  /-- FB.CK (R368). -/
  | fbCk (idx : BitVec 9)
  /-- FB.ENQ (R369). -/
  | fbEnq (idx : BitVec 9)
  /-- CK.INIT (R332). -/
  | ckInit
  /-- CK.UPD (R333). -/
  | ckUpd (word : Word)
  /-- CK.RD (R334). -/
  | ckRd
  /-- DSP.POLL (R400). -/
  | dspPoll
  /-- REG.RD (R401). -/
  | regRd (addr : Byte)
  /-- REG.WR (R402). -/
  | regWr (addr : Byte) (value : Word)
deriving DecidableEq, Repr

/-- The faults a command can raise (R450); NONE is no fault and has no constructor. -/
inductive FaultCode where
  | illegalCmd
  | badField
  | noChannel
  | fifoUnderflow
  | badBaud
  | tableNotBuilt
  | frameRange
  | seqBusy
  | regAddr
  | regRo
  | spscViolation
deriving DecidableEq, Repr

end Sys2Proof
end

