-- ==== Sys2Proof/WellFormed.lean ====
section
/-! DEFINITION. When a command is well formed for a configuration. The operand widths of R150 are in the types of `Instr`;
what is left to check is that a C-format command names a channel that is present (R153). -/

namespace Sys2Proof

/-- The channel a command names, for the C format (R150). -/
def Instr.channel : Instr → Option Chan
  | .uInit ch _ _ _ => some ch
  | .uTxw ch _ => some ch
  | .uRxav ch => some ch
  | .uRxw ch => some ch
  | .uTxrdy ch => some ch
  | .fqInit _ => none
  | .fqEnq _ _ => none
  | .fqDeq _ => none
  | .fqEmpty _ => none
  | .fqFull _ => none
  | .dmFeed _ => none
  | .fbBuild => none
  | .fbRdw _ _ => none
  | .fbLen _ => none
  | .fbCk _ => none
  | .fbEnq _ => none
  | .ckInit => none
  | .ckUpd _ => none
  | .ckRd => none
  | .dspPoll => none
  | .regRd _ => none
  | .regWr _ _ => none

/-- A C-format command with ch >= NUM_CH is the one ill-formed command a decoded word can give (R153). -/
def Instr.wf (g : Cfg) (i : Instr) : Bool :=
  match i.channel with
  | some ch => g.present ch
  | none => true

end Sys2Proof
end

