-- ==== Sys2Proof/Decode.lean ====
section
/-! DEFINITION. Command words to commands and back: spec/30_encoding.md R148 to R154. -/

namespace Sys2Proof

/-- OP = c[31:24] (R149). -/
def fieldOp (c : Command) : Byte := c.extractLsb' 24 8

/-- SEL = c[23:20] (R149). -/
def fieldSel (c : Command) : BitVec 4 := c.extractLsb' 20 4

/-- FLG = c[19:16] (R149). -/
def fieldFlg (c : Command) : BitVec 4 := c.extractLsb' 16 4

/-- IMM = c[15:0] (R149). -/
def fieldImm (c : Command) : Word := c.extractLsb' 0 16

/-- ADDR = c[23:16], format R (R149). -/
def fieldAddr (c : Command) : Byte := c.extractLsb' 16 8

/-- A command word from its fields (R148). -/
def packFields (op : Byte) (sel flg : BitVec 4) (imm : Word) : Command :=
  op ++ sel ++ flg ++ imm

/-- SEL[0] as a queue number (R150, format Q). -/
def queueOfSel (sel : BitVec 4) : Queue :=
  if sel.getLsbD 0 then .rxq else .txq

/-- SEL[0] as a channel number (R150, format C). -/
def chanOfSel (sel : BitVec 4) : Chan :=
  if sel.getLsbD 0 then .ch1 else .ch0

/-- The selector that names a queue (R150, R155). -/
def selOfQueue : Queue → BitVec 4
  | .txq => 0
  | .rxq => 1

/-- The selector that names a channel (R150, R155). -/
def selOfChan : Chan → BitVec 4
  | .ch0 => 0
  | .ch1 => 1

/-- IMM[8:0], the frame index of format F (R150). -/
def indexOfImm (imm : Word) : BitVec 9 := imm.extractLsb' 0 9

/-- The must-be-zero bits MBZ_MASK(OP) of R150 for a listed opcode, none for a reserved one (R151, R152). -/
def mbzMask (op : Byte) : Option Command :=
  match op.toNat with
  | 0x10 => some 0x00EFFFFF
  | 0x11 => some 0x00EF0000
  | 0x12 => some 0x00EFFFFF
  | 0x13 => some 0x00EFFFFF
  | 0x14 => some 0x00EFFFFF
  | 0x20 => some 0x00EC0000
  | 0x21 => some 0x00EF0000
  | 0x22 => some 0x00EFFFFF
  | 0x23 => some 0x00EFFFFF
  | 0x24 => some 0x00EFFFFF
  | 0x30 => some 0x00FF0000
  | 0x40 => some 0x00FFFFFF
  | 0x41 => some 0x000FFE00
  | 0x42 => some 0x00FFFE00
  | 0x43 => some 0x00FFFE00
  | 0x44 => some 0x00FFFE00
  | 0x50 => some 0x00FFFFFF
  | 0x51 => some 0x00FF0000
  | 0x52 => some 0x00FFFFFF
  | 0x60 => some 0x00FFFFFF
  | 0x70 => some 0x0000FFFF
  | 0x71 => some 0x00000000
  | _ => none

/-- The command a listed opcode stands for, with the operands of R150; none for a reserved opcode (R151). -/
def operandsOf (c : Command) : Option Instr :=
  match (fieldOp c).toNat with
  | 0x10 => some (.fqInit (queueOfSel (fieldSel c)))
  | 0x11 => some (.fqEnq (queueOfSel (fieldSel c)) (fieldImm c))
  | 0x12 => some (.fqDeq (queueOfSel (fieldSel c)))
  | 0x13 => some (.fqEmpty (queueOfSel (fieldSel c)))
  | 0x14 => some (.fqFull (queueOfSel (fieldSel c)))
  | 0x20 => some (.uInit (chanOfSel (fieldSel c)) ((fieldFlg c).getLsbD 0) ((fieldFlg c).getLsbD 1) (fieldImm c))
  | 0x21 => some (.uTxw (chanOfSel (fieldSel c)) (fieldImm c))
  | 0x22 => some (.uRxav (chanOfSel (fieldSel c)))
  | 0x23 => some (.uRxw (chanOfSel (fieldSel c)))
  | 0x24 => some (.uTxrdy (chanOfSel (fieldSel c)))
  | 0x30 => some (.dmFeed (fieldImm c))
  | 0x40 => some .fbBuild
  | 0x41 => some (.fbRdw (indexOfImm (fieldImm c)) (fieldSel c))
  | 0x42 => some (.fbLen (indexOfImm (fieldImm c)))
  | 0x43 => some (.fbCk (indexOfImm (fieldImm c)))
  | 0x44 => some (.fbEnq (indexOfImm (fieldImm c)))
  | 0x50 => some .ckInit
  | 0x51 => some (.ckUpd (fieldImm c))
  | 0x52 => some .ckRd
  | 0x60 => some .dspPoll
  | 0x70 => some (.regRd (fieldAddr c))
  | 0x71 => some (.regWr (fieldAddr c) (fieldImm c))
  | _ => none

/-- The first two checks of R154, in its order: a reserved opcode is ILLEGAL_CMD, a 1 in a must-be-zero bit is BAD_FIELD.
The third, NO_CHANNEL, needs the configuration and is the first thing a C-format meaning does. -/
def decode (c : Command) : Except FaultCode Instr :=
  match mbzMask (fieldOp c), operandsOf c with
  | some mbz, some i => if c &&& mbz = 0 then .ok i else .error .badField
  | _, _ => .error .illegalCmd

/-- The opcode byte of a command (R151). -/
def opcodeByte : Instr → Byte
  | .fqInit _ => 0x10
  | .fqEnq _ _ => 0x11
  | .fqDeq _ => 0x12
  | .fqEmpty _ => 0x13
  | .fqFull _ => 0x14
  | .uInit _ _ _ _ => 0x20
  | .uTxw _ _ => 0x21
  | .uRxav _ => 0x22
  | .uRxw _ => 0x23
  | .uTxrdy _ => 0x24
  | .dmFeed _ => 0x30
  | .fbBuild => 0x40
  | .fbRdw _ _ => 0x41
  | .fbLen _ => 0x42
  | .fbCk _ => 0x43
  | .fbEnq _ => 0x44
  | .ckInit => 0x50
  | .ckUpd _ => 0x51
  | .ckRd => 0x52
  | .dspPoll => 0x60
  | .regRd _ => 0x70
  | .regWr _ _ => 0x71

/-- SEL of a command's word; format R overlays it with the high half of ADDR (R150, R155). -/
def selField : Instr → BitVec 4
  | .fqInit q => selOfQueue q
  | .fqEnq q _ => selOfQueue q
  | .fqDeq q => selOfQueue q
  | .fqEmpty q => selOfQueue q
  | .fqFull q => selOfQueue q
  | .uInit ch _ _ _ => selOfChan ch
  | .uTxw ch _ => selOfChan ch
  | .uRxav ch => selOfChan ch
  | .uRxw ch => selOfChan ch
  | .uTxrdy ch => selOfChan ch
  | .dmFeed _ => 0
  | .fbBuild => 0
  | .fbRdw _ wire => wire
  | .fbLen _ => 0
  | .fbCk _ => 0
  | .fbEnq _ => 0
  | .ckInit => 0
  | .ckUpd _ => 0
  | .ckRd => 0
  | .dspPoll => 0
  | .regRd addr => addr.extractLsb' 4 4
  | .regWr addr _ => addr.extractLsb' 4 4

/-- FLG of a command's word: U.INIT's two requests, or the low half of ADDR in format R, else 0 (R150, R155). -/
def flgField : Instr → BitVec 4
  | .uInit _ nine intmode _ => 0#2 ++ BitVec.ofBool intmode ++ BitVec.ofBool nine
  | .regRd addr => addr.extractLsb' 0 4
  | .regWr addr _ => addr.extractLsb' 0 4
  | .fqInit _ => 0
  | .fqEnq _ _ => 0
  | .fqDeq _ => 0
  | .fqEmpty _ => 0
  | .fqFull _ => 0
  | .uTxw _ _ => 0
  | .uRxav _ => 0
  | .uRxw _ => 0
  | .uTxrdy _ => 0
  | .dmFeed _ => 0
  | .fbBuild => 0
  | .fbRdw _ _ => 0
  | .fbLen _ => 0
  | .fbCk _ => 0
  | .fbEnq _ => 0
  | .ckInit => 0
  | .ckUpd _ => 0
  | .ckRd => 0
  | .dspPoll => 0

/-- IMM of a command's word (R150, R155). -/
def immField : Instr → Word
  | .fqEnq _ word => word
  | .uInit _ _ _ baud => baud
  | .uTxw _ word => word
  | .dmFeed word => word
  | .fbRdw idx _ => idx.setWidth 16
  | .fbLen idx => idx.setWidth 16
  | .fbCk idx => idx.setWidth 16
  | .fbEnq idx => idx.setWidth 16
  | .ckUpd word => word
  | .regWr _ value => value
  | .fqInit _ => 0
  | .fqDeq _ => 0
  | .fqEmpty _ => 0
  | .fqFull _ => 0
  | .uRxav _ => 0
  | .uRxw _ => 0
  | .uTxrdy _ => 0
  | .fbBuild => 0
  | .ckInit => 0
  | .ckRd => 0
  | .dspPoll => 0
  | .regRd _ => 0

/-- The command word of a command (R148, R155). -/
def encode (i : Instr) : Command :=
  packFields (opcodeByte i) (selField i) (flgField i) (immField i)

/-- The strict match of a command's row: OP << 24 (R154). -/
def rowMatch (i : Instr) : Command := packFields (opcodeByte i) 0 0 0

/-- The strict mask of a command's row: 0xFF000000 | MBZ_MASK(OP) (R154). -/
def rowMask (i : Instr) : Command := 0xFF000000 ||| (mbzMask (opcodeByte i)).getD 0

/-- The decoder on the bits of a table row: a command is one 32-bit word, so there is no order of words to settle, and the
bits above `nbits` are 0. -/
def decodeTableWord (nbits w : Nat) : Option Instr :=
  if nbits ≤ 32 then
    match decode (BitVec.ofNat 32 (w % 2 ^ nbits)) with
    | .ok i => some i
    | .error _ => none
  else none

end Sys2Proof
end

