-- ==== Sys2Proof/Machine/State.lean ====
section
/-! DEFINITION. The state of GCD-9B: every element of spec/10_state.md, the model's own input fields, and reset
(spec/70_reset_and_hazards.md R500). -/

namespace Sys2Proof.Machine

/-- The slots of a FIFO instance as (index, word) pairs, indices strictly rising, no listed word equal to what an
unlisted slot reads as (R32, R100; log 6). -/
abbrev Memory := List (Nat × Word)

/-- A FIFO instance (R32). -/
structure Fifo where
  /-- Q.slot. -/
  slot : Memory
  /-- Q.r, the read index. -/
  r : Nat
  /-- Q.w, the write index. -/
  w : Nat
deriving DecidableEq, Repr

/-- U[ch].CTRL, its ten fields; bits 15:10 are hardwired to 0 and have no home (R34, R35). -/
structure Ctrl where
  en : Bool
  rxen : Bool
  txen : Bool
  nine : Bool
  rxie : Bool
  txie : Bool
  rxip : Bool
  txip : Bool
  de : Bool
  tx9 : Bool
deriving DecidableEq, Repr

/-- U[ch].THR (R38). -/
structure Holding where
  full : Bool
  data : Byte
deriving DecidableEq, Repr

/-- U[ch].TSR (R39). -/
structure Shifter where
  full : Bool
  sym : Symbol
  nine : Bool
deriving DecidableEq, Repr

/-- An entry of U[ch].RXB (R40). -/
structure RxEntry where
  sym : Symbol
  ferr : Bool
deriving DecidableEq, Repr

/-- SEQ.phase (R45). -/
inductive Phase where
  | idle
  | deOn
  | settle1
  | waitBuf
  | load9
  | load
  | waitShift
  | settle2
  | deOff
deriving DecidableEq, Repr

/-- U[ch].SEQ (R45). -/
structure Sequencer where
  phase : Phase
  word : Word
  owner : Ctx
deriving DecidableEq, Repr

/-- An entry of TRACE[ch] (R60). -/
inductive Event where
  /-- The channel drove a symbol of `width` bits onto the bus. -/
  | tx (width : Nat) (sym : Symbol)
  /-- A symbol left the shifter while the driver was off. -/
  | lost (width : Nat) (sym : Symbol)
  /-- CTRL.DE changed to `v`. -/
  | de (v : Bool)
  /-- CTRL.RXEN changed to `v`. -/
  | rxen (v : Bool)
deriving DecidableEq, Repr

/-- A UART channel U[ch] (R34 to R45) with its bus trace (R60). -/
structure Channel where
  ctrl : Ctrl
  brg : Word
  thr : Holding
  tsr : Shifter
  rxb : List RxEntry
  oerr : Bool
  seq : Sequencer
  trace : List Event
deriving DecidableEq, Repr

/-- MATCH: the history, the output latches and the pin directions (R50 to R52). -/
structure Matcher where
  hist0 : Symbol
  hist1 : Symbol
  hist2 : Symbol
  hist3 : Symbol
  out : BitVec 12
  outdir : BitVec 12
deriving DecidableEq, Repr

/-- An entry of FRB.TABLE: `core` holds the fourteen words core[0..13] (R57). -/
structure FrameEntry where
  count : BitVec 4
  core : List Word
  ck : Word
deriving DecidableEq, Repr

/-- INTCTL, its seven fields; bits 15:7 read 0 and have no home (R58). -/
structure Intctl where
  gieh : Bool
  giel : Bool
  tmrie : Bool
  tmren : Bool
  tickf : Bool
  inlp : Bool
  inhp : Bool
deriving DecidableEq, Repr

/-- ERR: bits 7:0 CODE, bit 8 FAULTED (R70). -/
structure ErrReg where
  code : Byte
  faulted : Bool
deriving DecidableEq, Repr

/-- Where one FQ.ENQ stands, with what its earlier microsteps loaded (R202). -/
inductive EnqAt where
  /-- Before s1. -/
  | s1
  /-- Before s2: `ww` the loaded write index, `v` the word. -/
  | s2 (ww : Nat) (v : Word)
  /-- Before s3. -/
  | s3 (ww : Nat)
deriving DecidableEq, Repr

/-- The label of a command's next microstep, with the command's private values (R14, R31). -/
inductive Micro where
  /-- The command's first step. -/
  | start
  /-- Inside FQ.ENQ (R202). -/
  | enq (at_ : EnqAt)
  /-- FQ.DEQ before s2 (R203). -/
  | deqS2 (rr : Nat)
  /-- FQ.DEQ before s3 (R203). -/
  | deqS3 (rr : Nat) (v : Word)
  /-- FQ.EMPTY or FQ.FULL before s2: the loaded Q.r (R204, R205). -/
  | queryS2 (a : Nat)
  /-- U.TXW after its start step: the phase is in U[ch].SEQ (R45, R243). -/
  | inSeq
  /-- FB.ENQ at wire position `p`, inside that word's FQ.ENQ (R369). -/
  | fbEnq (p : Nat) (at_ : EnqAt)
  /-- DSP.POLL before s2 (R400). -/
  | pollS2
  /-- DSP.POLL before s3, with the received word (R400). -/
  | pollS3 (w : Word)
deriving DecidableEq, Repr

/-- POS[ctx] (R31). -/
inductive Pos where
  /-- NONE: no command in progress. -/
  | none
  /-- The start of the HP handler, whose only step is its return (R461, R472). -/
  | hpStart
  /-- A command in progress and the label of its next step. The LP handler's position is this too: FQ.EMPTY TXQ is L1,
  FQ.DEQ TXQ is L2, U.TXW on TX_CH is L3 (R470). -/
  | run (i : Instr) (m : Micro)
deriving DecidableEq, Repr

/-- The machine's state. -/
structure State where
  /-- CFG, the configuration (R9): no step writes it (log 1). -/
  cfg : Cfg
  /-- TXQ (R32). -/
  txq : Fifo
  /-- RXQ (R32). -/
  rxq : Fifo
  /-- U[0]. -/
  u0 : Channel
  /-- U[1]; nothing reaches it when NUM_CH = 1 (log 19). -/
  u1 : Channel
  /-- MATCH. -/
  mat : Matcher
  /-- CKE.ACC (R55). -/
  ckAcc : Word
  /-- FRB.BUILT (R57). -/
  built : Bool
  /-- FRB.TABLE (R57). -/
  table : List FrameEntry
  /-- INTCTL (R58). -/
  intctl : Intctl
  /-- ERR (R70). -/
  err : ErrReg
  /-- RESULT (R72). -/
  result : Word
  /-- POS[MAIN] (R31). -/
  posMain : Pos
  /-- POS[LP] (R31). -/
  posLp : Pos
  /-- POS[HP] (R31). -/
  posHp : Pos
  /-- The model's input: commands the host has issued to MAIN and MAIN has not begun (R73; log 3). -/
  host : List Command
  /-- The model's input: choices already fixed by the outside, the next one first (R73, R115; log 2). -/
  sched : List Choice
  /-- The model's counter: how many free choices `Config.schedule` has given (log 2). -/
  seed : Nat
deriving DecidableEq, Repr

/-- Why the machine stops. A command the block cannot perform is no such stop: it records ERR and goes on (R451; log 9). -/
inductive Fault where
  /-- A FIFO microstep names a slot index that is not below CAPACITY, a slot R100 says does not exist. Raised by FQ.ENQ,
  FQ.DEQ and FB.ENQ; no state with indices in range raises it. Safe (log 10). -/
  | slotRange
deriving DecidableEq, Repr

/-- Why the model gives no next state. -/
inductive Refusal where
  /-- The instruction has no meaning yet; raised by an arm of exec only. Safe. -/
  | notModelled (mnemonic : String)
  /-- CFG breaks a constraint of R9 ("A CFG failing a constraint is refused"); raised by step. Safe (log 23). -/
  | badConfig
deriving DecidableEq, Repr

/-- The outcome of a meaning. -/
abbrev Out := Host.Outcome State Fault Refusal

/-- A FIFO instance at reset (R32): the slots read as log 6 says. -/
def Fifo.reset : Fifo where
  slot := []
  r := 0
  w := 0

/-- A UART channel at reset (R34 to R45, R60); THR.data, TSR.sym, TSR.nine, SEQ.word and SEQ.owner are unspecified there
and take the values of log 7. -/
def Channel.reset : Channel where
  ctrl := ⟨false, false, false, false, false, false, false, false, false, false⟩
  brg := 0
  thr := ⟨false, 0⟩
  tsr := ⟨false, 0, false⟩
  rxb := []
  oerr := false
  seq := ⟨.idle, 0, .main⟩
  trace := []

/-- A frame-table entry at reset, unspecified in R57: log 8. -/
def FrameEntry.reset : FrameEntry where
  count := 0
  core := List.replicate 14 0
  ck := 0

/-- The block right after reset under a configuration (R500). -/
def State.resetWith (g : Cfg) : State where
  cfg := g
  txq := .reset
  rxq := .reset
  u0 := .reset
  u1 := .reset
  mat := ⟨0, 0, 0, 0, 0, 0⟩
  ckAcc := g.crcInit
  built := false
  table := List.replicate (g.maxSlots + 3) .reset
  intctl := ⟨false, false, false, false, false, false, false⟩
  err := ⟨0, false⟩
  result := 0
  posMain := .none
  posLp := .none
  posHp := .none
  host := []
  sched := []
  seed := 0

/-- The block right after reset under the reference configuration (R9, R500; log 1). -/
def State.reset : State := .resetWith .ref

end Sys2Proof.Machine
end

