-- ==== Sys2Proof/Machine/Ops.lean ====
section
/-! DEFINITION. The named operations over the state: FIFO storage, channels and their control register, positions,
raising a fault (spec/60_exceptions.md R451), interrupt entry and return (R461, R462), and completing a command. -/

namespace Sys2Proof.Machine

/-! ### FIFO storage -/

/-- What a slot nothing has written reads as (R32 leaves it unspecified: log 6). -/
def unlistedWord : Word := 0

/-- MemRead (R13). -/
def Memory.read : Memory → Nat → Word
  | [], _ => unlistedWord
  | (b, x) :: m, a => if a = b then x else Memory.read m a

/-- Puts one pair in front of a memory whose indices are all larger, unless it says what an unlisted slot says. -/
def Memory.consCanon (a : Nat) (v : Word) (m : Memory) : Memory :=
  if v = unlistedWord then m else (a, v) :: m

/-- MemWrite (R13), keeping the canonical form. -/
def Memory.write : Memory → Nat → Word → Memory
  | [], a, v => Memory.consCanon a v []
  | (b, x) :: m, a, v =>
    if a < b then Memory.consCanon a v ((b, x) :: m)
    else if a = b then Memory.consCanon a v m
    else (b, x) :: Memory.write m a v

/-- Every listed index is above `lo`, the indices rise strictly, and no listed word is the unlisted one. -/
def Memory.wfAbove (lo : Nat) : Memory → Bool
  | [] => true
  | (a, v) :: m => decide (lo ≤ a) && decide (v ≠ unlistedWord) && Memory.wfAbove (a + 1) m

/-- The canonical form. -/
def Memory.wf (m : Memory) : Bool := Memory.wfAbove 0 m

/-! ### Parts of the state by name (R13) -/

/-- FIFO instance Q. -/
def State.fifo (s : State) : Queue → Fifo
  | .txq => s.txq
  | .rxq => s.rxq

/-- Replaces FIFO instance Q. -/
def State.setFifo (s : State) (q : Queue) (f : Fifo) : State :=
  match q with
  | .txq => { s with txq := f }
  | .rxq => { s with rxq := f }

/-- U[ch]. -/
def State.chan (s : State) : Chan → Channel
  | .ch0 => s.u0
  | .ch1 => s.u1

/-- Replaces U[ch]. -/
def State.setChan (s : State) (ch : Chan) (u : Channel) : State :=
  match ch with
  | .ch0 => { s with u0 := u }
  | .ch1 => { s with u1 := u }

/-- POS[ctx]. -/
def State.pos (s : State) : Ctx → Pos
  | .main => s.posMain
  | .lp => s.posLp
  | .hp => s.posHp

/-- POS[ctx] <- p. -/
def State.setPos (s : State) (x : Ctx) (p : Pos) : State :=
  match x with
  | .main => { s with posMain := p }
  | .lp => { s with posLp := p }
  | .hp => { s with posHp := p }

/-- The active context (R459). -/
def active (s : State) : Ctx :=
  if s.intctl.inhp then .hp else if s.intctl.inlp then .lp else .main

/-- Where the active context's command stands; a command not yet begun stands at its first step (R31). -/
def microOf (s : State) : Micro :=
  match s.pos (active s) with
  | .run _ m => m
  | .hpStart => .start
  | .none => .start

/-! ### U[ch].CTRL -/

/-- The one read of U[ch].CTRL: DE is hardwired to 0 on a channel without direction control (R35). -/
def State.ctrl (s : State) (ch : Chan) : Ctrl :=
  { (s.chan ch).ctrl with de := (s.chan ch).ctrl.de && s.cfg.hasDir ch }

/-- The TRACE entries of one write of CTRL: a change of RXEN, then a change of DE (R60). -/
def ctrlEvents (old new : Ctrl) : List Event :=
  (if old.rxen = new.rxen then [] else [Event.rxen new.rxen]) ++ (if old.de = new.de then [] else [Event.de new.de])

/-- The transmitter after a write of CTRL: EN or TXEN falling empties THR and TSR (R254). -/
def transmitterFalls (old new : Ctrl) : Bool :=
  (old.en && !new.en) || (old.txen && !new.txen)

/-- The receiver after a write of CTRL: RXEN falling clears OERR (R263). -/
def receiverFalls (old new : Ctrl) : Bool :=
  old.rxen && !new.rxen

/-- The one write of U[ch].CTRL, used by REG.WR, U.INIT, U.RXW and the sequencer alike (R265): the hardwired DE of R35, the
edges of R254 and R263, the TRACE entries of R60. -/
def writeCtrl (ch : Chan) (c : Ctrl) (s : State) : State :=
  let u := s.chan ch
  let old := s.ctrl ch
  let new := { c with de := c.de && s.cfg.hasDir ch }
  s.setChan ch
    { u with
      ctrl := new
      thr := { u.thr with full := u.thr.full && !transmitterFalls old new }
      tsr := { u.tsr with full := u.tsr.full && !transmitterFalls old new }
      oerr := u.oerr && !receiverFalls old new
      trace := u.trace ++ ctrlEvents old new }

/-- emit, and the other entries of TRACE[ch] (R13, R60). -/
def appendTrace (ch : Chan) (e : Event) (s : State) : State :=
  s.setChan ch { s.chan ch with trace := (s.chan ch).trace ++ [e] }

/-! ### Faults, interrupts and the end of a command -/

/-- The code a fault writes to ERR.CODE (R450). -/
def faultByte : FaultCode → Byte
  | .illegalCmd => 0x01
  | .badField => 0x02
  | .noChannel => 0x03
  | .fifoUnderflow => 0x04
  | .badBaud => 0x05
  | .tableNotBuilt => 0x06
  | .frameRange => 0x07
  | .seqBusy => 0x08
  | .regAddr => 0x09
  | .regRo => 0x0A
  | .spscViolation => 0x0B

/-- The last step of a handler: INHP or INLP falls and POS[ctx] becomes NONE (R462). MAIN has no handler to leave: its
position alone is cleared. -/
def leave (x : Ctx) (s : State) : State :=
  match x with
  | .main => { s with posMain := .none }
  | .lp => { s with posLp := .none, intctl := { s.intctl with inlp := false } }
  | .hp => { s with posHp := .none, intctl := { s.intctl with inhp := false } }

/-- ERR after a fault: the first code is kept, FAULTED is set (R451). -/
def recordFault (k : FaultCode) (e : ErrReg) : ErrReg where
  code := if e.faulted then e.code else faultByte k
  faulted := true

/-- raise Fault(code), one step: ERR and the end of the command (R451); in a handler, the end of the handler too (R471). -/
def raiseFault (k : FaultCode) (s : State) : State :=
  leave (active s) { s with err := recordFault k s.err }

/-- HP entry (R461). -/
def enterHp (s : State) : State :=
  { s with intctl := { s.intctl with inhp := true }, posHp := .hpStart }

/-- LP entry: TICKF is cleared and the handler starts at L1 (R461, R470). -/
def enterLp (s : State) : State :=
  { s with
    intctl := { s.intctl with inlp := true, tickf := false }
    posLp := .run (.fqEmpty .txq) .start }

/-- What the LP handler does after one of its commands (R470): the next command, or none to return. `res` is the command's
result. A command that is not one of the drain's three ends the handler (log 13). -/
def drainNext (txCh : Chan) (i : Instr) (res : Option Word) : Option Instr :=
  match i, res with
  | .fqEmpty .txq, some e => if e = 0 then some (.fqDeq .txq) else none
  | .fqDeq .txq, some w => some (.uTxw txCh w)
  | .uTxw ch _, _ => if ch = txCh then some (.fqEmpty .txq) else none
  | _, _ => none

/-- The end of a command of the active context. MAIN: RESULT takes the result, if the command has one, and POS becomes NONE
(R13, R159). LP: the result stays private to the handler, which goes on or returns in this step (R462, R470, R471). HP
issues no command; should one end there, the handler returns (log 13). -/
def complete (i : Instr) (res : Option Word) (s : State) : State :=
  match active s with
  | .main => { s with posMain := .none, result := res.getD s.result }
  | .lp =>
    match drainNext s.cfg.txCh i res with
    | some j => { s with posLp := .run j .start }
    | none => leave .lp s
  | .hp => leave .hp s

/-- The active context's command goes on at its next microstep (R14, R31). -/
def goOn (i : Instr) (m : Micro) (s : State) : State :=
  s.setPos (active s) (.run i m)

/-- A command that ends in this step, as an outcome. -/
def done (i : Instr) (res : Option Word) (s : State) : Out :=
  .next (complete i res s)

/-- A command that raises a fault in this step, as an outcome: the block goes on (R451). -/
def raised (k : FaultCode) (s : State) : Out :=
  .next (raiseFault k s)

/-- A command of format C on an absent channel raises NO_CHANNEL before anything else (R153, R154). -/
def onChannel (ch : Chan) (s : State) (body : Out) : Out :=
  if s.cfg.present ch then body else raised .noChannel s

/-! ### Register words -/

/-- A register word from its bits, bit 0 first (R11). -/
def packBits : List Bool → Word
  | [] => 0
  | b :: bs => (packBits bs <<< 1) ||| (if b then 1 else 0)

/-- CTRL as a register word (R34). -/
def Ctrl.toWord (c : Ctrl) : Word :=
  packBits [c.en, c.rxen, c.txen, c.nine, c.rxie, c.txie, c.rxip, c.txip, c.de, c.tx9]

/-- CTRL[9:0] <- v[9:0] (R403). -/
def Ctrl.ofWord (v : Word) : Ctrl where
  en := v.getLsbD 0
  rxen := v.getLsbD 1
  txen := v.getLsbD 2
  nine := v.getLsbD 3
  rxie := v.getLsbD 4
  txie := v.getLsbD 5
  rxip := v.getLsbD 6
  txip := v.getLsbD 7
  de := v.getLsbD 8
  tx9 := v.getLsbD 9

/-- INTCTL as a register word (R58). -/
def Intctl.toWord (c : Intctl) : Word :=
  packBits [c.gieh, c.giel, c.tmrie, c.tmren, c.tickf, c.inlp, c.inhp]

/-- INTCTL[3:0] <- v[3:0], the other fields kept (R403, R474). -/
def Intctl.write (c : Intctl) (v : Word) : Intctl :=
  { c with gieh := v.getLsbD 0, giel := v.getLsbD 1, tmrie := v.getLsbD 2, tmren := v.getLsbD 3 }

/-- ERR as a register word (R70). -/
def ErrReg.toWord (e : ErrReg) : Word :=
  e.code.setWidth 16 ||| (if e.faulted then 0x0100 else 0)

/-- A boolean result (R159). -/
def boolWord (b : Bool) : Word := if b then 0x0001 else 0x0000

end Sys2Proof.Machine
end

