-- ==== Sys2Proof/Machine/Operands.lean ====
section
/-! DEFINITION. Operands and the constants derived from the configuration: spec/00_scope.md R10, the index
advance, the baud divisor, the words of the frames, and the register map of spec/20_memory.md R103. -/

namespace Sys2Proof.Machine

/-! ### Derived constants (R10) -/

/-- NO_DATA = 1 << NODATA_BIT (R10). -/
def noData (g : Cfg) : Word := 1#16 <<< g.nodataBit

/-- FAULT_MASK (R10). -/
def faultMask (g : Cfg) : Word := (1#16 <<< g.ferrBit) ||| (1#16 <<< g.oerrBit) ||| (1#16 <<< g.nodataBit)

/-- A word is fault-free (R143). -/
def faultFree (g : Cfg) (w : Word) : Bool := w &&& faultMask g == 0

/-- TABLE_SIZE = MAX_SLOTS + 3 (R10, R361). -/
def tableSize (g : Cfg) : Nat := g.maxSlots + 3

/-- The index after `i`: (i + 1) mod C (R17, R202, R203). -/
def nextIndex (g : Cfg) (i : Nat) : Nat := (i + 1) % g.capacity

/-! ### Baud divisor (R242) -/

/-- floor(F_CLK / (16 * baud)) - 1, checked against 0..0xFFFF; none is BAD_BAUD, which baud 0 is too (R241, R242). -/
def divisor (g : Cfg) (baud : Word) : Option Word :=
  if baud = 0 then none
  else if g.fClk / (16 * baud.toNat) = 0 then none
  else if g.fClk / (16 * baud.toNat) - 1 ≤ 0xFFFF then some (BitVec.ofNat 16 (g.fClk / (16 * baud.toNat) - 1))
  else none

/-! ### Frames (R360 to R364) -/

/-- count(idx), a function of the index alone: 5 for entry 0, 4 for the others (R363, R364). -/
def coreCount (idx : Nat) : Nat := if idx = 0 then 5 else 4

/-- The core words of entry `idx`: Disconnect, Choose-Slot, or the Poll-Slot frame of slot idx - 2 (R361, R363). -/
def coreWords (g : Cfg) (idx : Nat) : List Word :=
  if idx = 0 then [g.preamble, g.lenDisc, g.opcDisc, g.discP0, g.discP1]
  else if idx = 1 then [g.preamble, g.lenChoose, g.opcChoose, BitVec.ofNat 16 (g.maxSlots - 1)]
  else [g.preamble, g.lenPoll, g.opcPoll, BitVec.ofNat 16 (idx - 2)]

/-- FRB.TABLE[idx]; an index past the list reads as the entry of reset. -/
def entryAt (s : State) (idx : Nat) : FrameEntry := s.table.getD idx .reset

/-- FrameRead(idx, p): wire word `p` of an entry, the core words, then the checksum's high and low bytes (R106, R362, R364). -/
def frameRead (s : State) (idx p : Nat) : Word :=
  if p < coreCount idx then (entryAt s idx).core.getD p 0
  else if p = coreCount idx then ((entryAt s idx).ck.extractLsb' 8 8).setWidth 16
  else ((entryAt s idx).ck.extractLsb' 0 8).setWidth 16

/-! ### The register space (R103) -/

/-- The registers of R103. -/
inductive Reg where
  | ctrl (ch : Chan)
  | stat (ch : Chan)
  | brg (ch : Chan)
  | out
  | outdir
  | intctl
  | hist0
  | hist1
  | hist2
  | hist3
  | ckacc
  | err
  | txqr
  | txqw
  | rxqr
  | rxqw
  | fbstat
deriving DecidableEq, Repr

/-- A register of channel 1 is present only when NUM_CH = 2 (R103). -/
def ifPresent (g : Cfg) (ch : Chan) (r : Reg) : Option Reg :=
  if g.present ch then some r else none

/-- The register map of R103; none is a reserved address. -/
def regAt (g : Cfg) (addr : Byte) : Option Reg :=
  match addr.toNat with
  | 0x00 => some (.ctrl .ch0)
  | 0x01 => some (.stat .ch0)
  | 0x02 => some (.brg .ch0)
  | 0x08 => ifPresent g .ch1 (.ctrl .ch1)
  | 0x09 => ifPresent g .ch1 (.stat .ch1)
  | 0x0A => ifPresent g .ch1 (.brg .ch1)
  | 0x10 => some .out
  | 0x11 => some .outdir
  | 0x12 => some .intctl
  | 0x14 => some .hist0
  | 0x15 => some .hist1
  | 0x16 => some .hist2
  | 0x17 => some .hist3
  | 0x18 => some .ckacc
  | 0x1F => some .err
  | 0x20 => some .txqr
  | 0x21 => some .txqw
  | 0x22 => some .rxqr
  | 0x23 => some .rxqw
  | 0x24 => some .fbstat
  | _ => none

/-- The access column of R103: may REG.WR write the register (R402). -/
def writable : Reg → Bool
  | .ctrl _ => true
  | .brg _ => true
  | .outdir => true
  | .intctl => true
  | .stat _ => false
  | .out => false
  | .hist0 => false
  | .hist1 => false
  | .hist2 => false
  | .hist3 => false
  | .ckacc => false
  | .err => false
  | .txqr => false
  | .txqw => false
  | .rxqr => false
  | .rxqw => false
  | .fbstat => false

end Sys2Proof.Machine
end

