-- ==== Sys2Proof/Machine/Flags.lean ====
section
/-! DEFINITION. Every status the block computes: the FIFO predicates (spec/10_state.md R33), the bits of STAT (R36), the
channel's state in DOC's words (R45), the matcher's trigger (spec/42_demux.md R303), the interrupt sources and entry
conditions (spec/60_exceptions.md R457, R458, R460), the pin levels (R53). -/

namespace Sys2Proof.Machine

/-! ### FIFO predicates (R33) -/

/-- Q.empty. -/
def Fifo.isEmpty (f : Fifo) : Bool := f.r == f.w

/-- Q.full. -/
def Fifo.isFull (g : Cfg) (f : Fifo) : Bool := nextIndex g f.w == f.r

/-- Q.count = (Q.w - Q.r) mod CAPACITY. -/
def Fifo.count (g : Cfg) (f : Fifo) : Nat := (f.w + g.capacity - f.r) % g.capacity

/-- The words a FIFO instance holds, oldest first (R207, R208). -/
def Fifo.contents (g : Cfg) (f : Fifo) : List Word :=
  (List.range (f.count g)).map fun i => f.slot.read ((f.r + i) % g.capacity)

/-! ### STAT (R36) -/

/-- RXAV. -/
def Channel.rxav (u : Channel) : Bool := !u.rxb.isEmpty

/-- TXBF. -/
def Channel.txbf (u : Channel) : Bool := !u.thr.full

/-- TSRE. -/
def Channel.tsre (u : Channel) : Bool := !u.thr.full && !u.tsr.full

/-- FERR: the flag of the head entry, 0 when RXB is empty. -/
def Channel.ferr (u : Channel) : Bool :=
  match u.rxb with
  | [] => false
  | e :: _ => e.ferr

/-- A symbol as the channel's mode has it: in 8-bit mode its bit 8 reads 0 (R140, R266). -/
def symbolInMode (c : Ctrl) (sym : Symbol) : Symbol :=
  if c.nine then sym else sym &&& 0x0FF

/-- RX9: the 9th bit of the head entry, 0 in 8-bit mode (R140, R266) and when RXB is empty. So a write that clears NINE, a U.INIT
without NINE among them, can turn RX9 from 1 to 0, where R36's formula and R241's line on flags leave it (log 24). -/
def Channel.rx9 (u : Channel) : Bool :=
  match u.rxb with
  | [] => false
  | e :: _ => (symbolInMode u.ctrl e.sym).getLsbD 8

/-- BUSY. -/
def Channel.busy (u : Channel) : Bool := u.seq.phase != .idle

/-- U[ch].STAT as a register word. -/
def Channel.stat (u : Channel) : Word :=
  packBits [u.rxav, u.txbf, u.tsre, u.ferr, u.oerr, u.rx9, u.busy]

/-- U.RXAV's answer (R248). -/
def rxAvailable (ch : Chan) (s : State) : Bool := (s.ctrl ch).en && (s.chan ch).rxav

/-- U.TXRDY's answer (R251). -/
def txReady (ch : Chan) (s : State) : Bool := (s.ctrl ch).txen && (s.chan ch).txbf

/-- DOC's direction-idle (R45). -/
def directionIdle (ch : Chan) (s : State) : Bool := (s.chan ch).seq.phase == .idle

/-- DOC's transmitting (R45). -/
def transmitting (ch : Chan) (s : State) : Bool := (s.chan ch).seq.phase != .idle

/-- DOC's receiving (R45). -/
def receiving (ch : Chan) (s : State) : Bool := (s.ctrl ch).en && (s.ctrl ch).rxen && !(s.ctrl ch).de

/-! ### Matcher (R147, R303) and pins (R53) -/

/-- The history holds the signature 0x072, 0x017, 0x100, position 0 the newest (R147). -/
def signature (h0 h1 h2 : Symbol) : Bool := h0 == 0x100 && h1 == 0x017 && h2 == 0x072

/-- TRIG, OUT8 (R51). -/
def trigger (s : State) : Bool := s.mat.out.getLsbD 8

/-- The level on pin OUTi: none when the pin is not driven (R53). -/
def pinLevel (s : State) (i : Fin 12) : Option Bool :=
  if s.mat.outdir.getLsbD i then some (s.mat.out.getLsbD i) else none

/-! ### Interrupts (R457, R458, R460) -/

/-- IRQ_RX[ch] (R457). -/
def irqRx (ch : Chan) (s : State) : Bool := (s.ctrl ch).rxie && (s.ctrl ch).en && (s.chan ch).rxav

/-- IRQ_TX[ch] (R457). -/
def irqTx (ch : Chan) (s : State) : Bool := (s.ctrl ch).txie && (s.ctrl ch).txen && (s.chan ch).txbf

/-- IRQ_TICK (R457). -/
def irqTick (s : State) : Bool := s.intctl.tmrie && s.intctl.tickf

/-- A source of a present channel routed to HP (R458). -/
def chanToHp (ch : Chan) (s : State) : Bool :=
  s.cfg.present ch && ((irqRx ch s && (s.ctrl ch).rxip) || (irqTx ch s && (s.ctrl ch).txip))

/-- A source of a present channel routed to LP (R458). -/
def chanToLp (ch : Chan) (s : State) : Bool :=
  s.cfg.present ch && ((irqRx ch s && !(s.ctrl ch).rxip) || (irqTx ch s && !(s.ctrl ch).txip))

/-- HP_PEND (R458). -/
def hpPend (s : State) : Bool := chanToHp .ch0 s || chanToHp .ch1 s

/-- LP_PEND (R458). -/
def lpPend (s : State) : Bool := irqTick s || chanToLp .ch0 s || chanToLp .ch1 s

/-- HP entry is enabled (R460). -/
def hpEntry (s : State) : Bool := s.intctl.gieh && !s.intctl.inhp && hpPend s

/-- LP entry is enabled (R460). -/
def lpEntry (s : State) : Bool :=
  s.intctl.gieh && s.intctl.giel && !s.intctl.inlp && !s.intctl.inhp && lpPend s && !hpEntry s

end Sys2Proof.Machine
end

