-- ==== Sys2Proof/Machine/Checksum.lean ====
section
/-! DEFINITION. The checksum engine, spec/43_checksum.md R330 to R335. -/

namespace Sys2Proof.Machine

/-- One input bit of crc16_step (R330). -/
def crcBit (g : Cfg) (acc : Word) (b : Bool) : Word :=
  (acc <<< 1) ^^^ (if b ^^ acc.getLsbD 15 then g.crcPoly else 0)

/-- The order of the input bits (R330). -/
def crcOrder (g : Cfg) : List Nat :=
  if g.crcRefin then List.range g.crcInBits else (List.range g.crcInBits).reverse

/-- crc16_step(acc, w) (R330). R333's remark that a word of zeros changes a non-zero register fails for some registers (0xF01F under
REF); the pseudocode is followed (log 26). -/
def crcStep (g : Cfg) (acc w : Word) : Word :=
  (crcOrder g).foldl (fun a i => crcBit g a (w.getLsbD i)) acc

/-- reflect16 (R331): bit i is bit 15 - i. -/
def reflect16 (a : Word) : Word :=
  packBits ((List.range 16).map fun i => a.getLsbD (15 - i))

/-- crc16_final(acc) (R331). -/
def crcFinal (g : Cfg) (acc : Word) : Word :=
  (if g.crcRefout then reflect16 acc else acc) ^^^ g.crcXorout

/-- crc16 of a word sequence (R335). -/
def crc16 (g : Cfg) (ws : List Word) : Word :=
  crcFinal g (ws.foldl (crcStep g) g.crcInit)

/-- CK.INIT (R332). -/
def execCkInit (s : State) : Out :=
  done .ckInit none { s with ckAcc := s.cfg.crcInit }

/-- CK.UPD (R333). -/
def execCkUpd (word : Word) (s : State) : Out :=
  done (.ckUpd word) none { s with ckAcc := crcStep s.cfg s.ckAcc word }

/-- CK.RD (R334). -/
def execCkRd (s : State) : Out :=
  done .ckRd (some (crcFinal s.cfg s.ckAcc)) s

end Sys2Proof.Machine
end

