-- ==== Sys2Proof/Machine/Fifo.lean ====
section
/-! DEFINITION. The FIFO commands, spec/40_fifo.md R201 to R205. Each call is one microstep of the command, chosen by the
active context's position (log 4). -/

namespace Sys2Proof.Machine

/-- Where one FQ.ENQ is after a microstep. -/
inductive EnqNext where
  /-- The enqueue is over: published, or dropped. -/
  | over
  /-- It goes on. -/
  | more (at_ : EnqAt)
deriving DecidableEq, Repr

/-- One microstep of FQ.ENQ's s1, s2, s3 (R202): none when the slot does not exist (log 10). `v` is the word, used at s1. -/
def enqStep (q : Queue) (v : Word) (at_ : EnqAt) (s : State) : Option (State × EnqNext) :=
  let f := s.fifo q
  match at_ with
  | .s1 => if nextIndex s.cfg f.w = f.r then some (s, .over) else some (s, .more (.s2 f.w v))
  | .s2 ww x =>
    if ww < s.cfg.capacity then some (s.setFifo q { f with slot := f.slot.write ww x }, .more (.s3 ww)) else none
  | .s3 ww => some (s.setFifo q { f with w := nextIndex s.cfg ww }, .over)

/-- FQ.INIT (R201). -/
def execFqInit (q : Queue) (s : State) : Out :=
  done (.fqInit q) none (s.setFifo q { s.fifo q with r := 0, w := 0 })

/-- Where FQ.ENQ stands. -/
def enqAt : Micro → EnqAt
  | .enq a => a
  | _ => .s1

/-- FQ.ENQ (R202, R206): the role check is made with s1 (log 5). -/
def execFqEnq (q : Queue) (word : Word) (s : State) : Out :=
  if active s ≠ s.cfg.prod q then raised .spscViolation s
  else
    match enqStep q word (enqAt (microOf s)) s with
    | some (t, .over) => done (.fqEnq q word) none t
    | some (t, .more a) => .next (goOn (.fqEnq q word) (.enq a) t)
    | none => .fault .slotRange

/-- FQ.DEQ (R203, R206): the role check is made with s1 (log 5). -/
def execFqDeq (q : Queue) (s : State) : Out :=
  if active s ≠ s.cfg.cons q then raised .spscViolation s
  else
    let f := s.fifo q
    match microOf s with
    | .deqS2 rr =>
      if rr < s.cfg.capacity then .next (goOn (.fqDeq q) (.deqS3 rr (f.slot.read rr)) s) else .fault .slotRange
    | .deqS3 rr v => done (.fqDeq q) (some v) (s.setFifo q { f with r := nextIndex s.cfg rr })
    | _ => if f.r = f.w then raised .fifoUnderflow s else .next (goOn (.fqDeq q) (.deqS2 f.r) s)

/-- FQ.EMPTY (R204). -/
def execFqEmpty (q : Queue) (s : State) : Out :=
  match microOf s with
  | .queryS2 a => done (.fqEmpty q) (some (boolWord (a == (s.fifo q).w))) s
  | _ => .next (goOn (.fqEmpty q) (.queryS2 (s.fifo q).r) s)

/-- FQ.FULL (R205). -/
def execFqFull (q : Queue) (s : State) : Out :=
  match microOf s with
  | .queryS2 a => done (.fqFull q) (some (boolWord (nextIndex s.cfg (s.fifo q).w == a))) s
  | _ => .next (goOn (.fqFull q) (.queryS2 (s.fifo q).r) s)

end Sys2Proof.Machine
end

