-- ==== Sys2Proof/Machine/Frame.lean ====
section
/-! DEFINITION. The frame builder, spec/44_frame.md R365 to R369. -/

namespace Sys2Proof.Machine

/-- FRB.TABLE[idx] as FB.BUILD writes it (R365): the count, the core words, the checksum of those words. The words of
core[0..13] past the count are not written and keep their values (log 8). -/
def buildEntry (g : Cfg) (idx : Nat) (old : FrameEntry) : FrameEntry where
  count := BitVec.ofNat 4 (coreWords g idx).length
  core := coreWords g idx ++ old.core.drop (coreWords g idx).length
  ck := crc16 g (coreWords g idx)

/-- FRB.TABLE as FB.BUILD writes it (R365). -/
def buildTable (s : State) : List FrameEntry :=
  (List.range (tableSize s.cfg)).map fun idx => buildEntry s.cfg idx (entryAt s idx)

/-- FB.BUILD (R365). -/
def execFbBuild (s : State) : Out :=
  done .fbBuild none { s with table := buildTable s, built := true }

/-- The checks of a frame read at an index: FRAME_RANGE, then TABLE_NOT_BUILT (R366 to R369, R456). -/
def frameFault (s : State) (inRange : Bool) : Option FaultCode :=
  if !inRange then some .frameRange else if !s.built then some .tableNotBuilt else none

/-- The index is in the table (R364). -/
def indexOk (s : State) (idx : BitVec 9) : Bool := decide (idx.toNat < tableSize s.cfg)

/-- The index is in the table and the wire position in its frame (R364). -/
def wireOk (s : State) (idx : BitVec 9) (wire : BitVec 4) : Bool :=
  indexOk s idx && decide (wire.toNat < coreCount idx.toNat + 2)

/-- FB.RDW (R366). -/
def execFbRdw (idx : BitVec 9) (wire : BitVec 4) (s : State) : Out :=
  match frameFault s (wireOk s idx wire) with
  | some k => raised k s
  | none => done (.fbRdw idx wire) (some (frameRead s idx.toNat wire.toNat)) s

/-- FB.LEN (R367). -/
def execFbLen (idx : BitVec 9) (s : State) : Out :=
  match frameFault s (indexOk s idx) with
  | some k => raised k s
  | none => done (.fbLen idx) (some ((entryAt s idx.toNat).count.setWidth 16)) s

/-- FB.CK (R368). -/
def execFbCk (idx : BitVec 9) (s : State) : Out :=
  match frameFault s (indexOk s idx) with
  | some k => raised k s
  | none => done (.fbCk idx) (some (entryAt s idx.toNat).ck) s

/-- The checks of FB.ENQ, in R369's order. -/
def fbEnqFault (s : State) (idx : BitVec 9) : Option FaultCode :=
  match frameFault s (indexOk s idx) with
  | some k => some k
  | none => if active s ≠ s.cfg.prod .txq then some .spscViolation else none

/-- FB.ENQ after a microstep of the FQ.ENQ of wire word `p`: inside that FQ.ENQ, at the next wire word, or over after word
count(idx) + 1 (R369). -/
def fbEnqAfter (idx : BitVec 9) (p : Nat) (n : EnqNext) (t : State) : Out :=
  match n with
  | .more a => .next (goOn (.fbEnq idx) (.fbEnq p a) t)
  | .over =>
    if p < coreCount idx.toNat + 1 then .next (goOn (.fbEnq idx) (.fbEnq (p + 1) .s1) t)
    else done (.fbEnq idx) none t

/-- FB.ENQ's step at wire position `p` (R369): the FQ.ENQ of R202 on TXQ with the frame's wire word. -/
def fbEnqStep (idx : BitVec 9) (p : Nat) (a : EnqAt) (s : State) : Out :=
  match enqStep .txq (frameRead s idx.toNat p) a s with
  | some (t, n) => fbEnqAfter idx p n t
  | none => .fault .slotRange

/-- FB.ENQ (R369): the checks are made once, with the first microstep (log 5). -/
def execFbEnq (idx : BitVec 9) (s : State) : Out :=
  match microOf s with
  | .fbEnq p a => fbEnqStep idx p a s
  | _ =>
    match fbEnqFault s idx with
    | some k => raised k s
    | none => fbEnqStep idx 0 .s1 s

end Sys2Proof.Machine
end

