-- ==== Sys2Proof/Machine/Demux.lean ====
section
/-! DEFINITION. The matcher and demultiplexer, spec/42_demux.md R301 to R305. -/

namespace Sys2Proof.Machine

/-- The history, the trigger and the taps after one word (R301): the trigger looks at the history after the shift (R303), the
taps at the raw word's bits 11..4 (R304), OUT[11:9] is kept. -/
def Matcher.feed (m : Matcher) (w : Word) : Matcher :=
  let h0 := w.extractLsb' 0 9
  { m with
    hist0 := h0
    hist1 := m.hist0
    hist2 := m.hist1
    hist3 := m.hist2
    out := m.out.extractLsb' 9 3 ++ BitVec.ofBool (signature h0 m.hist0 m.hist1) ++ w.extractLsb' 4 8 }

/-- The body of DM.FEED, one step (R301, R305). DSP.POLL uses it too (R400). -/
def feed (w : Word) (s : State) : State := { s with mat := s.mat.feed w }

/-- DM.FEED (R301): any 16-bit word is accepted. -/
def execDmFeed (word : Word) (s : State) : Out :=
  done (.dmFeed word) none (feed word s)

end Sys2Proof.Machine
end

