-- ==== Sys2Proof/Machine/Uart.lean ====
section
/-! DEFINITION. The channel commands, spec/41_uart.md R241 to R251. -/

namespace Sys2Proof.Machine

/-- CTRL after U.INIT's assignments (R241). -/
def initCtrl (g : Cfg) (nine intmode : Bool) (c : Ctrl) : Ctrl :=
  { c with
    en := true
    rxen := true
    txen := true
    nine := nine
    rxie := intmode
    txie := intmode
    rxip := if intmode then g.prioRx else c.rxip
    txip := if intmode then g.prioTx else c.txip
    de := false }

/-- BRG <- v. -/
def setBrg (ch : Chan) (v : Word) (s : State) : State :=
  s.setChan ch { s.chan ch with brg := v }

/-- U.INIT (R241): NO_CHANNEL, then BAD_BAUD, then SEQ_BUSY (R456). -/
def execUInit (ch : Chan) (nine intmode : Bool) (baud : Word) (s : State) : Out :=
  onChannel ch s
    (match divisor s.cfg baud with
    | none => raised .badBaud s
    | some d =>
      if (s.chan ch).busy then raised .seqBusy s
      else
        done (.uInit ch nine intmode baud) none
          (writeCtrl ch (initCtrl s.cfg nine intmode (s.ctrl ch)) (setBrg ch d s)))

/-- SEQ.phase <- p (R13). -/
def setPhase (ch : Chan) (p : Phase) (s : State) : State :=
  s.setChan ch { s.chan ch with seq := { (s.chan ch).seq with phase := p } }

/-- CTRL.DE <- b, on a direction-controlled channel (R243, R246). -/
def driveEnable (ch : Chan) (b : Bool) (s : State) : State :=
  if s.cfg.hasDir ch then writeCtrl ch { s.ctrl ch with de := b } s else s

/-- load_tx9 (R245). -/
def loadTx9 (ch : Chan) (b : Bool) (s : State) : State :=
  if s.cfg.tx9Sticky && !b then s else writeCtrl ch { s.ctrl ch with tx9 := b } s

/-- THR.data <- v, THR.full <- 1 (R243). -/
def loadHolding (ch : Chan) (v : Byte) (s : State) : State :=
  s.setChan ch { s.chan ch with thr := ⟨true, v⟩ }

/-- The step of U.TXW called `start` in R243. -/
def txwBegin (ch : Chan) (word : Word) (s : State) : State :=
  s.setChan ch { s.chan ch with seq := ⟨.deOn, word, active s⟩ }

/-- T_WAIT_SHIFT is over: TSRE is 1 (R243), and the transmitter is on (R247, R510: a transmitter disabled in the wait, whose byte
is discarded, leaves the sequencer waiting until EN and TXEN are set again; log 27). -/
def shiftWaitOver (ch : Chan) (s : State) : Bool :=
  (s.chan ch).tsre && (s.ctrl ch).en && (s.ctrl ch).txen

/-- The state after one phase of a transaction (R243): none while a wait holds. IDLE is no phase of a transaction. -/
def txwPhase (ch : Chan) (s : State) : Option State :=
  match (s.chan ch).seq.phase with
  | .idle => some s
  | .deOn => some (setPhase ch .settle1 (driveEnable ch true s))
  | .settle1 => some (setPhase ch .waitBuf s)
  | .waitBuf => if (s.chan ch).txbf then some (setPhase ch .load9 s) else none
  | .load9 => some (setPhase ch .load (loadTx9 ch ((s.chan ch).seq.word.getLsbD 8) s))
  | .load => some (setPhase ch .waitShift (loadHolding ch ((s.chan ch).seq.word.extractLsb' 0 8) s))
  | .waitShift => if shiftWaitOver ch s then some (setPhase ch .settle2 s) else none
  | .settle2 => some (setPhase ch .deOff s)
  | .deOff => some (setPhase ch .idle (driveEnable ch false s))

/-- U.TXW (R243): the start step, then one phase a step. A wait whose condition is false holds the context: nothing changes
(R13, R452; log 11). The transaction ends in the step that leaves the sequencer idle. -/
def execUTxw (ch : Chan) (word : Word) (s : State) : Out :=
  match microOf s with
  | .inSeq =>
    match txwPhase ch s with
    | none => .next s
    | some t => if (t.chan ch).busy then .next t else done (.uTxw ch word) none t
  | _ =>
    onChannel ch s
      (if (s.chan ch).busy then raised .seqBusy s else .next (goOn (.uTxw ch word) .inSeq (txwBegin ch word s)))

/-- U.RXAV (R248). -/
def execURxav (ch : Chan) (s : State) : Out :=
  onChannel ch s (done (.uRxav ch) (some (boolWord (rxAvailable ch s))) s)

/-- The result word of a reception (R142, R249). -/
def rxWord (g : Cfg) (ferr oerr : Bool) (sym : Symbol) : Word :=
  (if ferr then 1#16 <<< g.ferrBit else 0) ||| (if oerr then 1#16 <<< g.oerrBit else 0) ||| sym.setWidth 16

/-- RXEN <- 0 then RXEN <- 1, U.RXW's recovery from an overrun (R249, R250, R263). -/
def toggleReceiver (ch : Chan) (s : State) : State :=
  let t := writeCtrl ch { s.ctrl ch with rxen := false } s
  writeCtrl ch { t.ctrl ch with rxen := true } t

/-- RXB without its head. -/
def popRx (ch : Chan) (s : State) : State :=
  s.setChan ch { s.chan ch with rxb := (s.chan ch).rxb.tail }

/-- The body of U.RXW, one step: the result word and the state (R249); bit 8 of the symbol is 0 when NINE is 0 (R249, R266; log
24). DSP.POLL uses it too (R400). -/
def receiveWord (ch : Chan) (s : State) : Word × State :=
  if rxAvailable ch s then
    match (s.chan ch).rxb with
    | [] => (noData s.cfg, s)
    | e :: _ =>
      (rxWord s.cfg e.ferr (s.chan ch).oerr (symbolInMode (s.ctrl ch) e.sym),
        popRx ch (if (s.chan ch).oerr then toggleReceiver ch s else s))
  else (noData s.cfg, s)

/-- U.RXW (R249). -/
def execURxw (ch : Chan) (s : State) : Out :=
  onChannel ch s (done (.uRxw ch) (some (receiveWord ch s).1) (receiveWord ch s).2)

/-- U.TXRDY (R251). -/
def execUTxrdy (ch : Chan) (s : State) : Out :=
  onChannel ch s (done (.uTxrdy ch) (some (boolWord (txReady ch s))) s)

end Sys2Proof.Machine
end

