-- ==== Sys2Proof/Machine/Registers.lean ====
section
/-! DEFINITION. Receive dispatch and the register port, spec/45_dispatch_regs.md R400 to R404. -/

namespace Sys2Proof.Machine

/-- DSP.POLL (R400): s1 asks whether data is there, s2 receives the word, s3 feeds a fault-free one. -/
def execDspPoll (s : State) : Out :=
  match microOf s with
  | .pollS3 w => done .dspPoll (some w) (feed w s)
  | .pollS2 =>
    if faultFree s.cfg (receiveWord s.cfg.rxCh s).1 then
      .next (goOn .dspPoll (.pollS3 (receiveWord s.cfg.rxCh s).1) (receiveWord s.cfg.rxCh s).2)
    else done .dspPoll (some (receiveWord s.cfg.rxCh s).1) (receiveWord s.cfg.rxCh s).2
  | _ =>
    if rxAvailable s.cfg.rxCh s then .next (goOn .dspPoll .pollS2 s)
    else done .dspPoll (some (noData s.cfg)) s

/-- The value of a register (R103, R401). -/
def readReg (s : State) : Reg → Word
  | .ctrl ch => (s.ctrl ch).toWord
  | .stat ch => (s.chan ch).stat
  | .brg ch => (s.chan ch).brg
  | .out => s.mat.out.setWidth 16
  | .outdir => s.mat.outdir.setWidth 16
  | .intctl => s.intctl.toWord
  | .hist0 => s.mat.hist0.setWidth 16
  | .hist1 => s.mat.hist1.setWidth 16
  | .hist2 => s.mat.hist2.setWidth 16
  | .hist3 => s.mat.hist3.setWidth 16
  | .ckacc => s.ckAcc
  | .err => s.err.toWord
  | .txqr => BitVec.ofNat 16 s.txq.r
  | .txqw => BitVec.ofNat 16 s.txq.w
  | .rxqr => BitVec.ofNat 16 s.rxq.r
  | .rxqw => BitVec.ofNat 16 s.rxq.w
  | .fbstat => packBits [s.built]

/-- What REG.WR does to a writable register (R403); a read-only one is left alone. -/
def writeReg (s : State) (v : Word) : Reg → State
  | .ctrl ch => writeCtrl ch (Ctrl.ofWord v) s
  | .brg ch => setBrg ch v s
  | .outdir => { s with mat := { s.mat with outdir := v.extractLsb' 0 12 } }
  | .intctl => { s with intctl := s.intctl.write v }
  | .stat _ => s
  | .out => s
  | .hist0 => s
  | .hist1 => s
  | .hist2 => s
  | .hist3 => s
  | .ckacc => s
  | .err => s
  | .txqr => s
  | .txqw => s
  | .rxqr => s
  | .rxqw => s
  | .fbstat => s

/-- REG.RD (R401). -/
def execRegRd (addr : Byte) (s : State) : Out :=
  match regAt s.cfg addr with
  | none => raised .regAddr s
  | some r => done (.regRd addr) (some (readReg s r)) s

/-- REG.WR (R402): REG_ADDR before REG_RO (R456). -/
def execRegWr (addr : Byte) (value : Word) (s : State) : Out :=
  match regAt s.cfg addr with
  | none => raised .regAddr s
  | some r => if writable r then done (.regWr addr value) none (writeReg s value r) else raised .regRo s

end Sys2Proof.Machine
end

