-- ==== Sys2Proof/Machine/Dispatch.lean ====
section
/-! DEFINITION. One arm per command (spec/30_encoding.md R151). -/

namespace Sys2Proof.Machine

/-- One step of command `i` in the active context: its first step, or the one its position names (log 4). -/
def exec (i : Instr) (s : State) : Host.Outcome State Fault Refusal :=
  match i with
  | .fqInit q => Sys2Proof.Machine.execFqInit q s
  | .fqEnq q word => Sys2Proof.Machine.execFqEnq q word s
  | .fqDeq q => Sys2Proof.Machine.execFqDeq q s
  | .fqEmpty q => Sys2Proof.Machine.execFqEmpty q s
  | .fqFull q => Sys2Proof.Machine.execFqFull q s
  | .uInit ch nine intmode baud => Sys2Proof.Machine.execUInit ch nine intmode baud s
  | .uTxw ch word => Sys2Proof.Machine.execUTxw ch word s
  | .uRxav ch => Sys2Proof.Machine.execURxav ch s
  | .uRxw ch => Sys2Proof.Machine.execURxw ch s
  | .uTxrdy ch => Sys2Proof.Machine.execUTxrdy ch s
  | .dmFeed word => Sys2Proof.Machine.execDmFeed word s
  | .fbBuild => Sys2Proof.Machine.execFbBuild s
  | .fbRdw idx wire => Sys2Proof.Machine.execFbRdw idx wire s
  | .fbLen idx => Sys2Proof.Machine.execFbLen idx s
  | .fbCk idx => Sys2Proof.Machine.execFbCk idx s
  | .fbEnq idx => Sys2Proof.Machine.execFbEnq idx s
  | .ckInit => Sys2Proof.Machine.execCkInit s
  | .ckUpd word => Sys2Proof.Machine.execCkUpd word s
  | .ckRd => Sys2Proof.Machine.execCkRd s
  | .dspPoll => Sys2Proof.Machine.execDspPoll s
  | .regRd addr => Sys2Proof.Machine.execRegRd addr s
  | .regWr addr value => Sys2Proof.Machine.execRegWr addr value s

end Sys2Proof.Machine
end

