-- ==== Sys2Proof/Machine/Line.lean ====
section
/-! DEFINITION. The hardware steps: the bus side of a channel, spec/41_uart.md R252, R253, R262, and the tick timer,
spec/60_exceptions.md R476. A step that is not enabled changes nothing (log 16). -/

namespace Sys2Proof.Machine

/-- The shifter load is enabled (R252). -/
def loadEnabled (ch : Chan) (s : State) : Bool :=
  s.cfg.present ch && (s.ctrl ch).en && (s.ctrl ch).txen && (s.chan ch).thr.full && !(s.chan ch).tsr.full

/-- The 9 bits the shifter takes (R252, R266). -/
def symbolToSend (c : Ctrl) (data : Byte) : Symbol :=
  BitVec.ofBool (c.nine && c.tx9) ++ data

/-- Shifter load (R252). -/
def lineLoad (ch : Chan) (s : State) : State :=
  let u := s.chan ch
  if loadEnabled ch s then
    s.setChan ch
      { u with
        tsr := ⟨true, symbolToSend (s.ctrl ch) u.thr.data, (s.ctrl ch).nine⟩
        thr := { u.thr with full := false } }
  else s

/-- The TRACE entry of a completed shift (R253): lost when a direction-controlled channel's driver is off. -/
def shiftEvent (ch : Chan) (s : State) : Event :=
  let width := if (s.chan ch).tsr.nine then 9 else 8
  if s.cfg.hasDir ch && !(s.ctrl ch).de then .lost width (s.chan ch).tsr.sym else .tx width (s.chan ch).tsr.sym

/-- The shift completion is enabled (R253). -/
def shiftEnabled (ch : Chan) (s : State) : Bool := s.cfg.present ch && (s.chan ch).tsr.full

/-- TSR.full <- 0. -/
def emptyShifter (ch : Chan) (s : State) : State :=
  s.setChan ch { s.chan ch with tsr := { (s.chan ch).tsr with full := false } }

/-- Shift completion (R253). -/
def lineShift (ch : Chan) (s : State) : State :=
  if shiftEnabled ch s then emptyShifter ch (appendTrace ch (shiftEvent ch s) s) else s

/-- The receiver hears the bus: it is on and, with direction control, the driver is off (R262). -/
def hears (ch : Chan) (s : State) : Bool :=
  s.cfg.present ch && (s.ctrl ch).en && (s.ctrl ch).rxen && !(s.cfg.hasDir ch && (s.ctrl ch).de)

/-- Symbol arrival (R262); the symbol is stored as the mode has it (R266). -/
def lineArrive (ch : Chan) (sym : Symbol) (fe : Bool) (s : State) : State :=
  let u := s.chan ch
  if hears ch s then
    if u.oerr then s
    else if u.rxb.length = s.cfg.rxbufDepth then s.setChan ch { u with oerr := true }
    else s.setChan ch { u with rxb := u.rxb ++ [⟨symbolInMode (s.ctrl ch) sym, fe⟩] }
  else s

/-- The tick (R476). -/
def tick (s : State) : State :=
  if s.intctl.tmren then { s with intctl := { s.intctl with tickf := true } } else s

/-- The host issues one more command to MAIN (R73; log 3). -/
def hostIssues (c : Command) (s : State) : State := { s with host := s.host ++ [c] }

/-- A character on the wire, first bit first: start bit 0, data bits least significant first, the 9th bit in 9-bit mode, stop
bit 1 (R107, from general knowledge; no rule of the model reads it). -/
def wireBits (nine : Bool) (sym : Symbol) : List Bool :=
  [false] ++ (List.range (if nine then 9 else 8)).map (fun i => sym.getLsbD i) ++ [true]

end Sys2Proof.Machine
end

