-- ==== Sys2Proof/Machine/Fetch.lean ====
section
/-! DEFINITION. How a step is chosen and how a command is begun: spec/00_scope.md R15, spec/20_memory.md R115,
spec/30_encoding.md R154, spec/60_exceptions.md R459 to R462. -/

namespace Sys2Proof.Machine

/-- MAIN begins a command word: decode, then the command's first step (R154). -/
def beginCommand (c : Command) (s : State) : Out :=
  match decode c with
  | .ok i => exec i s
  | .error k => raised k s

/-- MAIN with no command in progress takes the next one the host has issued; with none issued it has no step (R31, R502). -/
def nextCommand (s : State) : Out :=
  match s.host with
  | [] => .next s
  | c :: cs => beginCommand c { s with host := cs }

/-- The active context's step (R459): the command in progress goes on; with none, MAIN takes the next command, and a handler
returns (the whole of the HP handler, R472; log 14 for LP). -/
def contextStep (s : State) : Out :=
  match s.pos (active s) with
  | .run i _ => exec i s
  | .hpStart => if active s = .main then nextCommand s else .next (leave (active s) s)
  | .none => if active s = .main then nextCommand s else .next (leave (active s) s)

/-- The processor's step: an enabled entry comes before the active context's step (R460, R465). -/
def processorStep (s : State) : Out :=
  if hpEntry s then .next (enterHp s) else if lpEntry s then .next (enterLp s) else contextStep s

/-- The step of the agent a choice names (R15). -/
def agentStep (c : Choice) (s : State) : Out :=
  match c with
  | .proc => processorStep s
  | .tmr => .next (tick s)
  | .load ch => .next (lineLoad ch s)
  | .shift ch => .next (lineShift ch s)
  | .arrive ch sym fe => .next (lineArrive ch sym fe s)
  | .host w => .next (hostIssues w s)

/-- The next choice and the state without it: the fixed ones first, then a free one (log 2). -/
def takeChoice (s : State) : Choice × State :=
  match s.sched with
  | c :: cs => (c, { s with sched := cs })
  | [] => (Config.schedule s.seed, { s with seed := s.seed + 1 })

/-- The state in which the very next step has MAIN begin the command word `c`: `c` is the next command, no command of MAIN is in
progress, the next choice is the processor, no handler is active, and no entry is enabled (log 22). -/
def withCommand (c : Command) (s : State) : State :=
  let t : State :=
    { s with
      host := c :: s.host
      posMain := .none
      sched := .proc :: s.sched
      intctl := { s.intctl with inlp := false, inhp := false } }
  if hpEntry t || lpEntry t then { t with intctl := { t.intctl with gieh := false } } else t

end Sys2Proof.Machine
end

