-- ==== Sys2Proof/Machine/Step.lean ====
section
/-! DEFINITION. One step of the block (spec/20_memory.md R115), and the placing of a command where the next step takes it. -/

namespace Sys2Proof.Machine

/-- One step: a configuration that breaks a constraint is refused (R9), else the chosen agent steps (R115). -/
def step (s : State) : Host.Outcome State Fault Refusal :=
  if s.cfg.ok then agentStep (takeChoice s).1 (takeChoice s).2 else .refused .badConfig

/-- `s` with the command word `w` where the next step takes it (log 3, log 22). -/
def State.withFetchWord (s : State) (nbits w : Nat) : State :=
  withCommand (BitVec.ofNat 32 (w % 2 ^ nbits)) s

end Sys2Proof.Machine
end

