-- ==== Sys2Proof/Machine/Assembler.lean ====
section
/-! DEFINITION. The assembler syntax and the pseudo-instructions, spec/30_encoding.md R155 and R156. No step reads this file. -/

namespace Sys2Proof.Machine

/-! ### Pseudo-instructions (R156) -/

/-- The pseudo-instructions. -/
inductive Pseudo where
  | ckCalc (words : List Word)
  | outEnable
  | intOn
  | intOff
deriving DecidableEq, Repr

/-- The commands a pseudo-instruction stands for (R156). -/
def Pseudo.expand : Pseudo → List Instr
  | .ckCalc words => [.ckInit] ++ words.map Instr.ckUpd ++ [.ckRd]
  | .outEnable => [.regWr 0x11 0x01FF]
  | .intOn => [.regWr 0x12 0x000F]
  | .intOff => [.regWr 0x12 0x0000]

/-! ### Reading a line (R155) -/

/-- A line without its comment. -/
def stripComment (line : List Char) : List Char := line.takeWhile fun c => !(c == ';')

/-- A text without the spaces at its two ends. -/
def trim (t : List Char) : List Char :=
  ((t.dropWhile fun c => c == ' ').reverse.dropWhile fun c => c == ' ').reverse

/-- The parts of a text between its commas; `cur` is the part being read, turned round. -/
def splitCommas : List Char → List Char → List (List Char)
  | [], cur => [cur.reverse]
  | c :: cs, cur => if c == ',' then cur.reverse :: splitCommas cs [] else splitCommas cs (c :: cur)

/-- The operands in the text after the mnemonic, separated by commas and by nothing else (R155): none where one is empty or has a
space inside it (log 25). -/
def operandsOf (rest : List Char) : Option (List (List Char)) :=
  if (trim rest).isEmpty then some []
  else
    let ops := (splitCommas rest []).map trim
    if ops.any fun o => o.isEmpty || o.any fun c => c == ' ' then none else some ops

/-- The value of a digit below `base`. -/
def digit (base : Nat) (c : Char) : Option Nat :=
  let n := c.toNat
  let v := if 48 ≤ n ∧ n ≤ 57 then n - 48 else if 65 ≤ n ∧ n ≤ 70 then n - 55 else if 97 ≤ n ∧ n ≤ 102 then n - 87 else base
  if v < base then some v else none

/-- The value of a run of digits after `acc`. -/
def digits (base : Nat) : List Char → Nat → Option Nat
  | [], acc => some acc
  | c :: cs, acc =>
    match digit base c with
    | some d => digits base cs (acc * base + d)
    | none => none

/-- A number, decimal or 0x hexadecimal (R155). -/
def number : List Char → Option Nat
  | [] => none
  | ['0', 'x'] => none
  | '0' :: 'x' :: ds => digits 16 ds 0
  | ds => digits 10 ds 0

/-- A number that fits `n` bits. -/
def field (n : Nat) (t : List Char) : Option (BitVec n) :=
  match number t with
  | some v => if v < 2 ^ n then some (BitVec.ofNat n v) else none
  | none => none

/-- A queue operand. -/
def queueName (t : List Char) : Option Queue :=
  if t = "TXQ".toList then some .txq else if t = "RXQ".toList then some .rxq else none

/-- A channel operand. -/
def chanNumber (t : List Char) : Option Chan :=
  match number t with
  | some 0 => some .ch0
  | some 1 => some .ch1
  | _ => none

/-- The register names of R103. -/
def regNames : List (String × Byte) :=
  [("U0.CTRL", 0x00), ("U0.STAT", 0x01), ("U0.BRG", 0x02), ("U1.CTRL", 0x08), ("U1.STAT", 0x09), ("U1.BRG", 0x0A),
    ("OUT", 0x10), ("OUTDIR", 0x11), ("INTCTL", 0x12), ("HIST0", 0x14), ("HIST1", 0x15), ("HIST2", 0x16),
    ("HIST3", 0x17), ("CKACC", 0x18), ("ERR", 0x1F), ("TXQR", 0x20), ("TXQW", 0x21), ("RXQR", 0x22), ("RXQW", 0x23),
    ("FBSTAT", 0x24)]

/-- A register operand: a name of R103 or an address. -/
def regOperand (t : List Char) : Option Byte :=
  match regNames.find? fun p => decide (p.1.toList = t) with
  | some p => some p.2
  | none => field 8 t

/-- U.INIT's requests after the baud rate: [, NINE] [, INT]. -/
def initRequests : List (List Char) → Option (Bool × Bool)
  | [] => some (false, false)
  | [a] => if a = "NINE".toList then some (true, false) else if a = "INT".toList then some (false, true) else none
  | [a, b] => if a = "NINE".toList ∧ b = "INT".toList then some (true, true) else none
  | _ => none

/-- The commands of a line's mnemonic and operands (R155, R156). -/
def commandOf (m : String) (ops : List (List Char)) : Option (List Instr) :=
  match m, ops with
  | "FQ.INIT", [q] => do return [.fqInit (← queueName q)]
  | "FQ.ENQ", [q, w] => do return [.fqEnq (← queueName q) (← field 16 w)]
  | "FQ.DEQ", [q] => do return [.fqDeq (← queueName q)]
  | "FQ.EMPTY", [q] => do return [.fqEmpty (← queueName q)]
  | "FQ.FULL", [q] => do return [.fqFull (← queueName q)]
  | "U.INIT", c :: b :: rs => do
    let r ← initRequests rs
    return [.uInit (← chanNumber c) r.1 r.2 (← field 16 b)]
  | "U.TXW", [c, w] => do return [.uTxw (← chanNumber c) (← field 16 w)]
  | "U.RXAV", [c] => do return [.uRxav (← chanNumber c)]
  | "U.RXW", [c] => do return [.uRxw (← chanNumber c)]
  | "U.TXRDY", [c] => do return [.uTxrdy (← chanNumber c)]
  | "DM.FEED", [w] => do return [.dmFeed (← field 16 w)]
  | "FB.BUILD", [] => some [.fbBuild]
  | "FB.RDW", [i, p] => do return [.fbRdw (← field 9 i) (← field 4 p)]
  | "FB.LEN", [i] => do return [.fbLen (← field 9 i)]
  | "FB.CK", [i] => do return [.fbCk (← field 9 i)]
  | "FB.ENQ", [i] => do return [.fbEnq (← field 9 i)]
  | "CK.INIT", [] => some [.ckInit]
  | "CK.UPD", [w] => do return [.ckUpd (← field 16 w)]
  | "CK.RD", [] => some [.ckRd]
  | "DSP.POLL", [] => some [.dspPoll]
  | "REG.RD", [a] => do return [.regRd (← regOperand a)]
  | "REG.WR", [a, v] => do return [.regWr (← regOperand a) (← field 16 v)]
  | "CK.CALC", ws => do return (Pseudo.ckCalc (← ws.mapM (field 16))).expand
  | "OUT.ENABLE", [] => some Pseudo.outEnable.expand
  | "INT.ON", [] => some Pseudo.intOn.expand
  | "INT.OFF", [] => some Pseudo.intOff.expand
  | _, _ => none

/-- The command words of one source line: none where it is not of R155's syntax, the empty list for an empty line. What R155's form
leaves open (spaces, the case of letters and digits, an empty line, an operand out of range) is log 25. -/
def assemble (line : String) : Option (List Command) :=
  let text := trim (stripComment line.toList)
  if text.isEmpty then some []
  else
    match operandsOf (text.dropWhile fun c => !(c == ' ')) with
    | none => none
    | some ops => (commandOf (String.ofList (text.takeWhile fun c => !(c == ' '))) ops).map fun is => is.map encode

end Sys2Proof.Machine
end

