-- ==== Sys2Proof/Safety.lean ====
section
/-! DEFINITION. The terms claims are stated in: where a run stands (spec/60_exceptions.md R452, spec/70_reset_and_hazards.md
R522), which runs are fair (spec/41_uart.md R252, spec/60_exceptions.md R476), and the invariants of the block. -/

namespace Sys2Proof.Safety

open Sys2Proof.Machine

/-! ### Where a run stands -/

/-- MAIN is the active context and has no command in progress. -/
def MainIdle (s : State) : Prop := active s = .main ∧ s.posMain = .none

/-- The run has faulted (R451, R452). -/
def Faulted (s : State) : Prop := s.err.faulted = true

/-- A context is held in one of U.TXW's waits (R13, R452, R510). -/
def Held (s : State) (x : Ctx) : Prop :=
  ∃ ch word, s.pos x = .run (.uTxw ch word) .inSeq ∧
    (((s.chan ch).seq.phase = .waitBuf ∧ (s.chan ch).txbf = false) ∨
      ((s.chan ch).seq.phase = .waitShift ∧ shiftWaitOver ch s = false))

/-- The end of a run of MAIN's commands (R522): nothing in progress or waiting, no handler active, no entry enabled. -/
def Ended (s : State) : Prop :=
  s.host = [] ∧ s.posMain = .none ∧ s.intctl.inlp = false ∧ s.intctl.inhp = false ∧ hpEntry s = false ∧ lpEntry s = false

/-- A command run without interruption in the active context: `exec` until it answers `t` after `n` steps. -/
def RunsTo (i : Instr) : Nat → State → State → Prop
  | 0, s, t => s = t
  | n + 1, s, t => ∃ u, exec i s = .next u ∧ RunsTo i n u t

/-- Commands run one after another, each a single step of the active context. -/
def RunsEach : List Instr → State → State → Prop
  | [], s, t => s = t
  | i :: is, s, t => ∃ u, exec i s = .next u ∧ RunsEach is u t

/-! ### Runs and fairness -/

/-- A run without end: `σ n` is the state after `n` steps, and `c n` the choice fixed for the step that follows. Every order of the
agents is the choices of some run (R115). -/
def IsRun (c : Nat → Choice) (σ : Nat → State) : Prop :=
  ∀ n, step { σ n with sched := [c n] } = .next (σ (n + 1))

/-- An agent's step is weakly fair in a run: if it stays enabled from some moment on, it is taken at that moment or later. -/
def WeaklyFair (c : Nat → Choice) (σ : Nat → State) (agent : Choice) (enabled : State → Bool) : Prop :=
  ∀ n, (∀ m, n ≤ m → enabled (σ m) = true) → ∃ m, n ≤ m ∧ c m = agent

/-- The runs the spec admits: the shifter load of each channel (R252) and the tick (R476) are weakly fair. The shift completion
(R253) and the arrivals (R262) are not, and the spec says nothing of the processor and the host (log 15). -/
structure FairRun (c : Nat → Choice) (σ : Nat → State) : Prop where
  run : IsRun c σ
  load : ∀ ch, WeaklyFair c σ (.load ch) (loadEnabled ch)
  tick : WeaklyFair c σ .tmr fun s => s.intctl.tmren

/-! ### Invariants -/

/-- A handler is active exactly when it has a position, and its position is one of the fixed handlers' (R461, R462, R470,
R472). -/
structure HandlerInv (s : State) : Prop where
  lpIdle : s.intctl.inlp = false → s.posLp = .none
  lpRuns : s.intctl.inlp = true →
    ∃ m, s.posLp = .run (.fqEmpty .txq) m ∨ s.posLp = .run (.fqDeq .txq) m ∨ ∃ w, s.posLp = .run (.uTxw s.cfg.txCh w) m
  hpIdle : s.intctl.inhp = false → s.posHp = .none
  hpRuns : s.intctl.inhp = true → s.posHp = .hpStart
  mainPos : s.posMain ≠ .hpStart

/-- Both indices of an instance are in 0..CAPACITY-1 and its storage is canonical, with no slot past CAPACITY (R32, R100). -/
structure QueueInv (g : Cfg) (f : Fifo) : Prop where
  readIndex : f.r < g.capacity
  writeIndex : f.w < g.capacity
  canonical : f.slot.wf = true
  slots : ∀ p ∈ f.slot, p.1 < g.capacity

/-- What a producer inside FQ.ENQ has loaded is still right (R116, R117, R202). -/
def enqOk (g : Cfg) (f : Fifo) (v : Word) : EnqAt → Prop
  | .s1 => True
  | .s2 ww x => ww = f.w ∧ x = v ∧ nextIndex g f.w ≠ f.r
  | .s3 ww => ww = f.w ∧ f.slot.read ww = v ∧ nextIndex g f.w ≠ f.r

/-- What a context inside a FIFO command has loaded is still right (R116, R117, R204, R470). -/
def posOk (s : State) (x : Ctx) : Prop :=
  match s.pos x with
  | .run (.fqEnq q v) (.enq a) => x = s.cfg.prod q ∧ enqOk s.cfg (s.fifo q) v a
  | .run (.fbEnq idx) (.fbEnq p a) =>
    x = s.cfg.prod .txq ∧ p < coreCount idx.toNat + 2 ∧ enqOk s.cfg s.txq (frameRead s idx.toNat p) a
  | .run (.fqDeq q) (.deqS2 rr) => x = s.cfg.cons q ∧ rr = (s.fifo q).r ∧ (s.fifo q).r ≠ (s.fifo q).w
  | .run (.fqDeq q) (.deqS3 rr v) =>
    x = s.cfg.cons q ∧ rr = (s.fifo q).r ∧ (s.fifo q).r ≠ (s.fifo q).w ∧ v = (s.fifo q).slot.read rr
  | .run (.fqDeq _) _ => x = .lp → s.txq.r ≠ s.txq.w
  | .run (.fqEmpty .txq) (.queryS2 a) => x = .lp → a = s.txq.r
  | _ => True

/-- The FIFO invariant: both instances are sound, and so is whatever the contexts hold of them. -/
structure FifoInv (s : State) : Prop where
  cfgOk : s.cfg.ok = true
  handlers : HandlerInv s
  queues : ∀ q, QueueInv s.cfg (s.fifo q)
  positions : ∀ x, posOk s x

/-- The transaction invariant of channel `ch` (R45, R243): the sequencer is busy exactly while its owner is inside the U.TXW
whose word it transmits, and nobody else is. -/
structure SeqInv (ch : Chan) (s : State) : Prop where
  busyOwned : (s.chan ch).seq.phase ≠ .idle →
    s.pos (s.chan ch).seq.owner = .run (.uTxw ch (s.chan ch).seq.word) .inSeq
  insideBusy : ∀ x w, s.pos x = .run (.uTxw ch w) .inSeq → (s.chan ch).seq.phase ≠ .idle ∧ (s.chan ch).seq.owner = x

/-- The receive invariant of channel `ch` (R35, R40, R262, R263): at most RXBUF_DEPTH entries are held, an overrun stands only
while RXEN is 1, and DE is 0 where it is hardwired. -/
structure ReceiveInv (ch : Chan) (s : State) : Prop where
  depth : (s.chan ch).rxb.length ≤ s.cfg.rxbufDepth
  overrun : (s.chan ch).oerr = true → (s.chan ch).ctrl.rxen = true
  hardwired : s.cfg.hasDir ch = false → (s.chan ch).ctrl.de = false

/-- The matcher invariant (R51, R303): TRIG says whether the history holds the signature, and OUT[11:9] is 0. -/
structure MatcherInv (s : State) : Prop where
  trig : trigger s = signature s.mat.hist0 s.mat.hist1 s.mat.hist2
  unused : s.mat.out.extractLsb' 9 3 = 0

/-- The frame-table invariant (R57, R102, R121, R365): TABLE_SIZE entries of fourteen words, and once BUILT is 1 every entry is
the one FB.BUILD makes from the configuration. -/
structure FrameInv (s : State) : Prop where
  size : s.table.length = tableSize s.cfg
  words : ∀ e ∈ s.table, e.core.length = 14
  content : s.built = true → ∀ idx, idx < tableSize s.cfg →
    (entryAt s idx).count.toNat = coreCount idx ∧
    (entryAt s idx).core.take (coreCount idx) = coreWords s.cfg idx ∧
    (entryAt s idx).ck = crc16 s.cfg (coreWords s.cfg idx)

/-- The fault register (R70, R450): CODE is NONE until a fault, then one of the codes. -/
structure ErrInv (s : State) : Prop where
  none : s.err.faulted = false → s.err.code = 0
  code : s.err.faulted = true → ∃ k : FaultCode, s.err.code = faultByte k

end Sys2Proof.Safety
end

