-- ==== Sys2Proof/Certificates/Slice0/Obligations.lean ====
section
/-! DEFINITION. The statements for the provers: what the commands, the agents and the machine do, from the rules of spec/.
A statement about MAIN's commands gives the whole next state, so it is its own frame: whatever it does not name is unchanged. The
fields `sched`, `host` and `seed` are the model's inputs (logs 2 and 3): a statement that names a choice in `sched` says what the
agent it names does. -/

open Sys2Proof Sys2Proof.Machine Sys2Proof.Safety

/-! ### Encoding (R148 to R154) -/

/-- R148 to R155: decode and encode agree. Every command, with every operand its encoding admits, decodes from its own word, and
a word that decodes is the word of what it decodes to: no bit of an encoding is dropped. -/
def Obligations.DecodeAndEncodeAgree : Prop :=
  (∀ i : Instr, decode (encode i) = .ok i) ∧ ∀ (c : Command) (i : Instr), decode c = .ok i → encode i = c

/-- R151, R153, R154: for each row of the opcode map, a word with the row's opcode decodes exactly when it meets the row's match
and mask, and is BAD_FIELD otherwise. -/
def Obligations.RowsDecodeByMatchAndMask : Prop :=
  ∀ row ∈ ([(0x10, 0xFFEFFFFF), (0x11, 0xFFEF0000), (0x12, 0xFFEFFFFF), (0x13, 0xFFEFFFFF), (0x14, 0xFFEFFFFF),
      (0x20, 0xFFEC0000), (0x21, 0xFFEF0000), (0x22, 0xFFEFFFFF), (0x23, 0xFFEFFFFF), (0x24, 0xFFEFFFFF),
      (0x30, 0xFFFF0000), (0x40, 0xFFFFFFFF), (0x41, 0xFF0FFE00), (0x42, 0xFFFFFE00), (0x43, 0xFFFFFE00),
      (0x44, 0xFFFFFE00), (0x50, 0xFFFFFFFF), (0x51, 0xFFFF0000), (0x52, 0xFFFFFFFF), (0x60, 0xFFFFFFFF),
      (0x70, 0xFF00FFFF), (0x71, 0xFF000000)] : List (Byte × Command)),
    ∀ c : Command, c.extractLsb' 24 8 = row.1 →
      (c &&& row.2 = (row.1.setWidth 32 : Command) <<< 24 → ∃ i, decode c = .ok i ∧ opcodeByte i = row.1) ∧
      (c &&& row.2 ≠ (row.1.setWidth 32 : Command) <<< 24 → decode c = .error .badField)

/-- A few words written out from the encodings (R150, R151) decode to the commands they stand for. -/
def Obligations.SampleWordsDecode : Prop :=
  decode 0x11101234 = .ok (.fqEnq .rxq 0x1234) ∧ decode 0x20014B00 = .ok (.uInit .ch0 true false 19200) ∧
    decode 0x21100100 = .ok (.uTxw .ch1 0x100) ∧ decode 0x30000072 = .ok (.dmFeed 0x072) ∧
    decode 0x41500001 = .ok (.fbRdw 1 5) ∧ decode 0x510001FF = .ok (.ckUpd 0x1FF) ∧ decode 0x60000000 = .ok .dspPoll ∧
    decode 0x711101FF = .ok (.regWr 0x11 0x1FF)

/-! ### The step (R115, R154, R459) -/

/-- A step runs the decoded command: with MAIN idle, no entry enabled and the processor next, the host's next word that decodes
to `i` is run by exec of `i`, the word and the choice being taken off their queues. -/
def Obligations.StepRunsTheDecodedCommand : Prop :=
  ∀ (s : State) (c : Command) (rest : List Command) (cs : List Choice) (i : Instr),
    s.cfg.ok = true → MainIdle s → hpEntry s = false → lpEntry s = false → s.sched = .proc :: cs → s.host = c :: rest →
    decode c = .ok i → step s = exec i { s with sched := cs, host := rest }

/-- A step continues the command in progress of the active context at its position (R31, R459). -/
def Obligations.StepContinuesTheCommand : Prop :=
  ∀ (s : State) (cs : List Choice) (i : Instr) (m : Micro),
    s.cfg.ok = true → hpEntry s = false → lpEntry s = false → s.sched = .proc :: cs → s.pos (active s) = .run i m →
    step s = exec i { s with sched := cs }

/-- R152, R153, R154, R451: a word with a reserved opcode raises ILLEGAL_CMD (0x01), a word with a listed opcode and a 1 in a
must-be-zero bit raises BAD_FIELD (0x02), and nothing else changes. -/
def Obligations.IllFormedWordsRaiseTheirFault : Prop :=
  ∀ (s : State) (c : Command) (rest : List Command) (cs : List Choice),
    s.cfg.ok = true → MainIdle s → hpEntry s = false → lpEntry s = false → s.sched = .proc :: cs → s.host = c :: rest →
    (c.extractLsb' 24 8 ∉ ([0x10, 0x11, 0x12, 0x13, 0x14, 0x20, 0x21, 0x22, 0x23, 0x24, 0x30, 0x40, 0x41, 0x42, 0x43, 0x44,
        0x50, 0x51, 0x52, 0x60, 0x70, 0x71] : List Byte) →
      step s = .next
        { s with sched := cs, host := rest, err := ⟨if s.err.faulted then s.err.code else 0x01, true⟩ }) ∧
    (∀ row ∈ ([(0x10, 0x00EFFFFF), (0x11, 0x00EF0000), (0x12, 0x00EFFFFF), (0x13, 0x00EFFFFF), (0x14, 0x00EFFFFF),
        (0x20, 0x00EC0000), (0x21, 0x00EF0000), (0x22, 0x00EFFFFF), (0x23, 0x00EFFFFF), (0x24, 0x00EFFFFF),
        (0x30, 0x00FF0000), (0x40, 0x00FFFFFF), (0x41, 0x000FFE00), (0x42, 0x00FFFE00), (0x43, 0x00FFFE00),
        (0x44, 0x00FFFE00), (0x50, 0x00FFFFFF), (0x51, 0x00FF0000), (0x52, 0x00FFFFFF), (0x60, 0x00FFFFFF),
        (0x70, 0x0000FFFF)] : List (Byte × Command)),
      c.extractLsb' 24 8 = row.1 → c &&& row.2 ≠ 0 →
      step s = .next
        { s with sched := cs, host := rest, err := ⟨if s.err.faulted then s.err.code else 0x02, true⟩ })

/-- R459, R464: a step of the active context leaves the position of every other context as it was. -/
def Obligations.PreemptedContextsKeepTheirPosition : Prop :=
  ∀ (s t : State), contextStep s = .next t → ∀ y, y ≠ active s → t.pos y = s.pos y

/-! ### The ring FIFO (R201 to R208) -/

/-- R201: FQ.INIT sets both indices to 0 and changes nothing else, slots included. -/
def Obligations.FqInitEmptiesTheQueue : Prop :=
  ∀ (s : State) (q : Queue), MainIdle s →
    exec (.fqInit q) s = .next (s.setFifo q { slot := (s.fifo q).slot, r := 0, w := 0 })

/-- R202, R454: FQ.ENQ of MAIN on a queue it may enqueue into (R206), with room, loads, writes the slot, then publishes; nothing but
the slot and, in the last
step, Q.w changes. On a full queue it completes in its first step and changes no state. -/
def Obligations.FqEnqWritesThenPublishesOrDrops : Prop :=
  ∀ (s : State) (q : Queue) (v : Word), MainIdle s → s.cfg.prod q = .main →
    ((s.fifo q).w < s.cfg.capacity → ((s.fifo q).w + 1) % s.cfg.capacity ≠ (s.fifo q).r →
      ∃ a b, exec (.fqEnq q v) s = .next a ∧ a = { s with posMain := a.posMain } ∧
        exec (.fqEnq q v) a = .next b ∧
        b = { s.setFifo q { s.fifo q with slot := (s.fifo q).slot.write (s.fifo q).w v } with posMain := b.posMain } ∧
        exec (.fqEnq q v) b = .next (s.setFifo q
          { slot := (s.fifo q).slot.write (s.fifo q).w v
            r := (s.fifo q).r
            w := ((s.fifo q).w + 1) % s.cfg.capacity })) ∧
    (((s.fifo q).w + 1) % s.cfg.capacity = (s.fifo q).r → exec (.fqEnq q v) s = .next s)

/-- R203, R451: FQ.DEQ of MAIN, on a queue it may dequeue (R206): on a non-empty one it answers the word at Q.r in RESULT and advances
Q.r, nothing else; on an empty one it raises FIFO_UNDERFLOW (0x04) and changes nothing else. (LP's FQ.DEQ of TXQ is in
`LpDrainFollowsItsSteps`.) -/
def Obligations.FqDeqAnswersTheOldestWordOrUnderflows : Prop :=
  ∀ (s : State) (q : Queue), MainIdle s → s.cfg.cons q = .main →
    ((s.fifo q).r < s.cfg.capacity → (s.fifo q).r ≠ (s.fifo q).w →
      RunsTo (.fqDeq q) 3 s
        { s.setFifo q { s.fifo q with r := ((s.fifo q).r + 1) % s.cfg.capacity } with
          result := (s.fifo q).slot.read (s.fifo q).r }) ∧
    ((s.fifo q).r = (s.fifo q).w →
      exec (.fqDeq q) s = .next { s with err := ⟨if s.err.faulted then s.err.code else 0x04, true⟩ })

/-- R206, R369, R471: an enqueue from a context that is not PROD[q], a dequeue from one that is not CONS[q], and FB.ENQ from one that
is not PROD[TXQ] once its other checks pass (R369), raise SPSC_VIOLATION (0x0B). In a handler the fault ends the handler (R471);
that it does so in the step that faults is the model's reading (log 12). -/
def Obligations.WrongContextRaisesSpscViolation : Prop :=
  ∀ s : State,
    (∀ q v, active s ≠ s.cfg.prod q → exec (.fqEnq q v) s =
      .next (leave (active s) { s with err := ⟨if s.err.faulted then s.err.code else 0x0B, true⟩ })) ∧
    (∀ q, active s ≠ s.cfg.cons q → exec (.fqDeq q) s =
      .next (leave (active s) { s with err := ⟨if s.err.faulted then s.err.code else 0x0B, true⟩ })) ∧
    (active s ≠ s.cfg.prod .txq → microOf s = .start → s.built = true → ∀ idx : BitVec 9, idx.toNat < s.cfg.maxSlots + 3 →
      exec (.fbEnq idx) s =
        .next (leave (active s) { s with err := ⟨if s.err.faulted then s.err.code else 0x0B, true⟩ }))

/-- R204, R205: FQ.EMPTY of MAIN answers whether the indices are equal, FQ.FULL whether one more word would make them equal; each
takes two steps and nothing but RESULT changes. -/
def Obligations.FqEmptyAndFqFullAnswerTheirPredicate : Prop :=
  ∀ (s : State) (q : Queue), MainIdle s →
    RunsTo (.fqEmpty q) 2 s { s with result := if (s.fifo q).r = (s.fifo q).w then 0x0001 else 0x0000 } ∧
    RunsTo (.fqFull q) 2 s
      { s with result := if ((s.fifo q).w + 1) % s.cfg.capacity = (s.fifo q).r then 0x0001 else 0x0000 }

/-- R207.3, R208: with CAPACITY at least 2 a queue is never both empty and full, and it holds at most C - 1 words; it is empty
exactly when it holds none, and full exactly when it holds C - 1. -/
def Obligations.EmptyAndFullExclude : Prop :=
  ∀ (g : Cfg) (f : Fifo), 2 ≤ g.capacity → f.r < g.capacity → f.w < g.capacity →
    ¬(f.isEmpty = true ∧ f.isFull g = true) ∧ f.count g ≤ g.capacity - 1 ∧ (f.isEmpty = true ↔ f.count g = 0) ∧
      (f.isFull g = true ↔ f.count g = g.capacity - 1)

/-- R116, R117: every step keeps the FIFO invariant: indices in range, storage canonical
(the model's form, log 6), handlers in their places, and
everything a context has loaded inside a FIFO command still right, for every interleaving. -/
def Obligations.StepKeepsFifoInv : Prop :=
  ∀ s t : State, FifoInv s → step s = .next t → FifoInv t

/-- R207: the FIFO laws, for every interleaving. A step changes the words a queue holds in three ways only: the producer's s3
appends the word of its FQ.ENQ (or of its FB.ENQ, on TXQ); the consumer's s3 takes the oldest word off and that is the word it
loaded; FQ.INIT empties the queue. -/
def Obligations.FifoLawsHoldAtEveryStep : Prop :=
  ∀ (s t : State) (q : Queue), FifoInv s → step s = .next t →
    (t.fifo q).contents t.cfg = (s.fifo q).contents s.cfg ∨
    (∃ v, (t.fifo q).contents t.cfg = (s.fifo q).contents s.cfg ++ [v] ∧
      ((∃ ww, s.pos (active s) = .run (.fqEnq q v) (.enq (.s3 ww))) ∨
        (∃ idx p ww, q = .txq ∧ s.pos (active s) = .run (.fbEnq idx) (.fbEnq p (.s3 ww)) ∧ v = frameRead s idx.toNat p))) ∨
    (∃ v rr, (s.fifo q).contents s.cfg = v :: (t.fifo q).contents t.cfg ∧
      s.pos (active s) = .run (.fqDeq q) (.deqS3 rr v)) ∨
    ((t.fifo q).contents t.cfg = [] ∧
      ((∃ m, s.pos (active s) = .run (.fqInit q) m) ∨ (∃ c cs, s.host = c :: cs ∧ decode c = .ok (.fqInit q))))

/-- R451: the block keeps working: from a state with the FIFO invariant every step answers a next state. (An idle MAIN and an agent
that is not enabled take a step that changes nothing: the model's choice, logs 3 and 16.) -/
def Obligations.StepAlwaysAnswersNext : Prop :=
  ∀ s : State, FifoInv s → ∃ t, step s = .next t

/-! ### The UART channels (R241 to R266) -/

/-- R241, R242, R456: U.INIT of MAIN on a present channel. With baud 0 or a divisor outside 0..0xFFFF it raises BAD_BAUD (0x05); with
a legal divisor and a transaction in progress, SEQ_BUSY (0x08); neither changes anything else. Otherwise it programs BRG and CTRL
and appends the TRACE entries of the changes, and nothing else changes. (RX9 follows NINE for a symbol held from 9-bit mode, where
R241's line on flags says that U.INIT leaves RX9: log 24.) -/
def Obligations.UInitProgramsTheChannelOrFaults : Prop :=
  ∀ (s : State) (ch : Chan) (nine intmode : Bool) (baud : Word), MainIdle s → s.cfg.present ch = true →
    ((baud = 0 ∨ s.cfg.fClk / (16 * baud.toNat) = 0 ∨ 0xFFFF < s.cfg.fClk / (16 * baud.toNat) - 1) →
      exec (.uInit ch nine intmode baud) s =
        .next { s with err := ⟨if s.err.faulted then s.err.code else 0x05, true⟩ }) ∧
    (baud ≠ 0 → 1 ≤ s.cfg.fClk / (16 * baud.toNat) → s.cfg.fClk / (16 * baud.toNat) - 1 ≤ 0xFFFF →
      ((s.chan ch).seq.phase ≠ .idle → exec (.uInit ch nine intmode baud) s =
        .next { s with err := ⟨if s.err.faulted then s.err.code else 0x08, true⟩ }) ∧
      ((s.chan ch).seq.phase = .idle → exec (.uInit ch nine intmode baud) s = .next (s.setChan ch
        { s.chan ch with
          brg := BitVec.ofNat 16 (s.cfg.fClk / (16 * baud.toNat) - 1)
          ctrl :=
            { en := true, rxen := true, txen := true, nine := nine, rxie := intmode, txie := intmode
              rxip := if intmode then s.cfg.prioRx else (s.chan ch).ctrl.rxip
              txip := if intmode then s.cfg.prioTx else (s.chan ch).ctrl.txip
              de := false, tx9 := (s.chan ch).ctrl.tx9 }
          trace := (s.chan ch).trace ++ (if (s.chan ch).ctrl.rxen then [] else [.rxen true]) ++
            (if (s.chan ch).ctrl.de && s.cfg.hasDir ch then [.de false] else []) })))

/-- R153: every C-format command on a channel that is not present raises NO_CHANNEL (0x03) and has no other effect. -/
def Obligations.AbsentChannelRaisesNoChannel : Prop :=
  ∀ (s : State) (i : Instr) (ch : Chan), MainIdle s → i.channel = some ch → s.cfg.numCh ≤ ch.num →
    exec i s = .next { s with err := ⟨if s.err.faulted then s.err.code else 0x03, true⟩ }

/-- R243, R471: the first step of U.TXW, whatever context issues it (MAIN, or the LP drain at L3), begins the transaction on an idle
sequencer, its owner that context, and raises SEQ_BUSY (0x08) on a busy one, which in a handler ends the handler; that it does so
in the step that faults is the model's reading (log 12). -/
def Obligations.UTxwBeginsOrIsBusy : Prop :=
  ∀ (s : State) (ch : Chan) (word : Word),
    s.pos (active s) = .none ∨ s.pos (active s) = .run (.uTxw ch word) .start → s.cfg.present ch = true →
    ((s.chan ch).seq.phase = .idle → exec (.uTxw ch word) s = .next
      ((s.setChan ch { s.chan ch with seq := ⟨.deOn, word, active s⟩ }).setPos (active s) (.run (.uTxw ch word) .inSeq))) ∧
    ((s.chan ch).seq.phase ≠ .idle → exec (.uTxw ch word) s =
      .next (leave (active s) { s with err := ⟨if s.err.faulted then s.err.code else 0x08, true⟩ }))

/-- R243 to R246, R470: each phase of a transaction, whatever context issued it, changes what its line says and nothing else: DE and its
TRACE entry on a direction-controlled channel only, TX9 as TX9_STICKY says, the holding register, and the phase. The last phase ends
MAIN's command, and takes the LP drain from L3 back to L1, which shares the step by log 12. (T_WAIT_SHIFT with the transmitter off is
in `UTxwHoldsWhileWaiting`.) -/
def Obligations.UTxwPhasesTakeTheirEffect : Prop :=
  ∀ (s : State) (ch : Chan) (word : Word), s.pos (active s) = .run (.uTxw ch word) .inSeq →
    (s.chan ch).seq.word = word → ReceiveInv ch s →
    ((s.chan ch).seq.phase = .deOn → exec (.uTxw ch word) s = .next (s.setChan ch
      { s.chan ch with
        ctrl := { (s.chan ch).ctrl with de := s.cfg.hasDir ch }
        trace := (s.chan ch).trace ++ (if s.cfg.hasDir ch && !(s.chan ch).ctrl.de then [.de true] else [])
        seq := { (s.chan ch).seq with phase := .settle1 } })) ∧
    ((s.chan ch).seq.phase = .settle1 → exec (.uTxw ch word) s = .next (s.setChan ch
      { s.chan ch with seq := { (s.chan ch).seq with phase := .waitBuf } })) ∧
    ((s.chan ch).seq.phase = .waitBuf → (s.chan ch).thr.full = false → exec (.uTxw ch word) s = .next (s.setChan ch
      { s.chan ch with seq := { (s.chan ch).seq with phase := .load9 } })) ∧
    ((s.chan ch).seq.phase = .load9 → exec (.uTxw ch word) s = .next (s.setChan ch
      { s.chan ch with
        ctrl := { (s.chan ch).ctrl with
          tx9 := if s.cfg.tx9Sticky then (s.chan ch).ctrl.tx9 || word.getLsbD 8 else word.getLsbD 8 }
        seq := { (s.chan ch).seq with phase := .load } })) ∧
    ((s.chan ch).seq.phase = .load → exec (.uTxw ch word) s = .next (s.setChan ch
      { s.chan ch with
        thr := ⟨true, word.extractLsb' 0 8⟩
        seq := { (s.chan ch).seq with phase := .waitShift } })) ∧
    ((s.chan ch).seq.phase = .waitShift → (s.chan ch).thr.full = false → (s.chan ch).tsr.full = false →
      (s.chan ch).ctrl.en = true → (s.chan ch).ctrl.txen = true → exec (.uTxw ch word) s = .next (s.setChan ch
        { s.chan ch with seq := { (s.chan ch).seq with phase := .settle2 } })) ∧
    ((s.chan ch).seq.phase = .settle2 → exec (.uTxw ch word) s = .next (s.setChan ch
      { s.chan ch with seq := { (s.chan ch).seq with phase := .deOff } })) ∧
    (∀ p : Pos, (s.chan ch).seq.phase = .deOff →
      (active s = .main ∧ p = .none ∨ active s = .lp ∧ ch = s.cfg.txCh ∧ p = .run (.fqEmpty .txq) .start) →
      exec (.uTxw ch word) s = .next ((s.setChan ch
        { s.chan ch with
          ctrl := { (s.chan ch).ctrl with de := false }
          trace := (s.chan ch).trace ++ (if (s.chan ch).ctrl.de then [.de false] else [])
          seq := { (s.chan ch).seq with phase := .idle } }).setPos (active s) p))

/-- R247, R452, R510: while the awaited flag is false, or at T_WAIT_SHIFT the transmitter is off, a U.TXW is held in its wait, whatever
context issued it. That the step of a held context is one that changes nothing is the model's choice (log 11; for EN and TXEN,
log 27). -/
def Obligations.UTxwHoldsWhileWaiting : Prop :=
  ∀ (s : State) (ch : Chan) (word : Word), s.pos (active s) = .run (.uTxw ch word) .inSeq →
    ((s.chan ch).seq.phase = .waitBuf ∧ (s.chan ch).thr.full = true) ∨
      ((s.chan ch).seq.phase = .waitShift ∧ ((s.chan ch).thr.full = true ∨ (s.chan ch).tsr.full = true ∨
        (s.chan ch).ctrl.en = false ∨ (s.chan ch).ctrl.txen = false)) →
    exec (.uTxw ch word) s = .next s

/-- R243, R252, R253: MAIN idle, the host's next command U.TXW on an enabled, quiet channel, and the processor taking every step but
the shifter load and the shift completion between T_LOAD and T_WAIT_SHIFT: the command ends after its eleven steps, and the bus
trace gains exactly de(1), the symbol, de(0) (only the symbol without direction control). -/
def Obligations.UTxwSendsItsSymbol : Prop :=
  ∀ (s : State) (ch : Chan) (word : Word) (rest : List Command), s.cfg.ok = true → s.cfg.present ch = true → MainIdle s →
    s.host = encode (.uTxw ch word) :: rest → s.intctl.gieh = false → s.cfg.tx9Sticky = false →
    (s.chan ch).ctrl.en = true → (s.chan ch).ctrl.txen = true → (s.chan ch).ctrl.de = false →
    (s.chan ch).seq.phase = .idle → (s.chan ch).thr.full = false → (s.chan ch).tsr.full = false →
    s.sched = [.proc, .proc, .proc, .proc, .proc, .proc, .load ch, .shift ch, .proc, .proc, .proc] →
    ∃ t, Sys2Proof.core.run 11 s = .next t ∧ t.posMain = .none ∧ t.host = rest ∧ (t.chan ch).seq.phase = .idle ∧
      t.result = s.result ∧ t.err = s.err ∧ (t.chan ch).rxb = (s.chan ch).rxb ∧
      (t.chan ch).trace = (s.chan ch).trace ++
        (if s.cfg.hasDir ch then [.de true] else []) ++
        [if (s.chan ch).ctrl.nine then .tx 9 (word.extractLsb' 0 9) else .tx 8 (word.extractLsb' 0 9 &&& 0x0FF)] ++
        (if s.cfg.hasDir ch then [.de false] else [])

/-- R45, R243: every step keeps the transaction invariant of every channel: the sequencer is busy exactly while its owner is
inside the U.TXW it transmits. -/
def Obligations.StepKeepsSeqInv : Prop :=
  ∀ (s t : State) (ch : Chan), HandlerInv s → (∀ c, SeqInv c s) → step s = .next t → SeqInv ch t

/-- R248, R251: U.RXAV and U.TXRDY of MAIN answer their two conditions; nothing else changes. -/
def Obligations.URxavAndUTxrdyAnswer : Prop :=
  ∀ (s : State) (ch : Chan), MainIdle s → s.cfg.present ch = true →
    exec (.uRxav ch) s =
      .next { s with result := if (s.chan ch).ctrl.en = true ∧ (s.chan ch).rxb ≠ [] then 0x0001 else 0x0000 } ∧
    exec (.uTxrdy ch) s =
      .next { s with result := if (s.chan ch).ctrl.txen = true ∧ (s.chan ch).thr.full = false then 0x0001 else 0x0000 }

/-- R249, R263, R266: U.RXW of MAIN answers NO_DATA when the channel is disabled or holds nothing; else it answers the flags and the
head symbol, bit 8 as 0 in 8-bit mode, and pops it, and on an overrun it also clears OERR by toggling RXEN, which TRACE shows. (That
bit 8 is 0 also of a symbol held from 9-bit mode is log 24.) -/
def Obligations.URxwReceivesTheHead : Prop :=
  ∀ (s : State) (ch : Chan), MainIdle s → s.cfg.present ch = true → ReceiveInv ch s →
    ((s.chan ch).ctrl.en = false ∨ (s.chan ch).rxb = [] →
      exec (.uRxw ch) s = .next { s with result := 1#16 <<< s.cfg.nodataBit }) ∧
    (∀ e es, (s.chan ch).ctrl.en = true → (s.chan ch).rxb = e :: es → (s.chan ch).oerr = false →
      exec (.uRxw ch) s = .next
        { s.setChan ch { s.chan ch with rxb := es } with
          result := (if e.ferr then 1#16 <<< s.cfg.ferrBit else 0) |||
            (if (s.chan ch).ctrl.nine then e.sym.setWidth 16 else e.sym.setWidth 16 &&& 0x00FF) }) ∧
    (∀ e es, (s.chan ch).ctrl.en = true → (s.chan ch).rxb = e :: es → (s.chan ch).oerr = true →
      exec (.uRxw ch) s = .next
        { s.setChan ch
            { s.chan ch with rxb := es, oerr := false, trace := (s.chan ch).trace ++ [.rxen false, .rxen true] } with
          result := (if e.ferr then 1#16 <<< s.cfg.ferrBit else 0) ||| 1#16 <<< s.cfg.oerrBit |||
            (if (s.chan ch).ctrl.nine then e.sym.setWidth 16 else e.sym.setWidth 16 &&& 0x00FF) })

/-- R252, R253: the shifter load, when enabled, moves the held byte, under its 9th bit in 9-bit mode, into the shifter; the shift
completion empties a full shifter, and the symbol is lost when a direction-controlled channel's driver is off, else it reaches the
bus. When not enabled, neither has a step by the spec; that such a choice is a step that changes nothing is the model's (log 16). -/
def Obligations.LineLoadsAndShifts : Prop :=
  ∀ (s : State) (ch : Chan) (cs : List Choice), s.cfg.ok = true → s.cfg.present ch = true →
    (s.sched = .load ch :: cs → step s = .next
      (if (s.chan ch).ctrl.en = true ∧ (s.chan ch).ctrl.txen = true ∧ (s.chan ch).thr.full = true ∧
          (s.chan ch).tsr.full = false then
        { s.setChan ch
            { s.chan ch with
              tsr :=
                { full := true
                  sym := (if (s.chan ch).ctrl.nine = true ∧ (s.chan ch).ctrl.tx9 = true then 0x100 else 0) |||
                    (s.chan ch).thr.data.setWidth 9
                  nine := (s.chan ch).ctrl.nine }
              thr := { (s.chan ch).thr with full := false } } with
          sched := cs }
      else { s with sched := cs })) ∧
    (s.sched = .shift ch :: cs → step s = .next
      (if (s.chan ch).tsr.full = true then
        { s.setChan ch
            { s.chan ch with
              tsr := { (s.chan ch).tsr with full := false }
              trace := (s.chan ch).trace ++
                [if s.cfg.hasDir ch = true ∧ (s.chan ch).ctrl.de = false then
                    .lost (if (s.chan ch).tsr.nine then 9 else 8) (s.chan ch).tsr.sym
                  else .tx (if (s.chan ch).tsr.nine then 9 else 8) (s.chan ch).tsr.sym] } with
          sched := cs }
      else { s with sched := cs }))

/-- R262, R266: a symbol that arrives is discarded when the receiver is off, the driver is on, or an overrun stands; it sets OERR
when the buffer is full; else it is held, bit 8 as 0 in 8-bit mode. -/
def Obligations.LineDeliversASymbol : Prop :=
  ∀ (s : State) (ch : Chan) (sym : Symbol) (fe : Bool) (cs : List Choice), s.cfg.ok = true → s.cfg.present ch = true →
    s.sched = .arrive ch sym fe :: cs →
    step s = .next
      (if (s.chan ch).ctrl.en = false ∨ (s.chan ch).ctrl.rxen = false ∨
          (s.cfg.hasDir ch = true ∧ (s.chan ch).ctrl.de = true) ∨ (s.chan ch).oerr = true then { s with sched := cs }
      else if (s.chan ch).rxb.length = s.cfg.rxbufDepth then
        { s.setChan ch { s.chan ch with oerr := true } with sched := cs }
      else
        { s.setChan ch
            { s.chan ch with
              rxb := (s.chan ch).rxb ++ [⟨if (s.chan ch).ctrl.nine then sym else sym &&& 0x0FF, fe⟩] } with
          sched := cs })

/-- R35, R40, R262, R263: every step keeps the receive invariant: at most RXBUF_DEPTH held entries, OERR only while RXEN is 1, DE 0
where it is hardwired. -/
def Obligations.StepKeepsReceiveInv : Prop :=
  ∀ (s t : State) (ch : Chan), ReceiveInv ch s → step s = .next t → ReceiveInv ch t

/-! ### The matcher (R301 to R307, R123) -/

/-- R301: DM.FEED of MAIN shifts the history, sets the trigger from the history after the shift, and the eight taps from the raw
word's bits 11..4; OUT[11:9] and everything else is unchanged. -/
def Obligations.DmFeedUpdatesHistoryTriggerAndTaps : Prop :=
  ∀ (s : State) (w : Word), MainIdle s →
    ∃ t, exec (.dmFeed w) s = .next t ∧ t = { s with mat := t.mat } ∧
      t.mat.hist0 = w.extractLsb' 0 9 ∧ t.mat.hist1 = s.mat.hist0 ∧ t.mat.hist2 = s.mat.hist1 ∧
      t.mat.hist3 = s.mat.hist2 ∧ t.mat.outdir = s.mat.outdir ∧
      (∀ k, k < 8 → t.mat.out.getLsbD (7 - k) = decide (w &&& (0x0800 >>> k) ≠ 0)) ∧
      t.mat.out.getLsbD 8 = decide (w.extractLsb' 0 9 = 0x100#9 ∧ s.mat.hist0 = 0x017 ∧ s.mat.hist1 = 0x072) ∧
      (∀ k, 9 ≤ k → t.mat.out.getLsbD k = s.mat.out.getLsbD k)

/-- R147, R303: after three feeds from any state the trigger is asserted exactly when the three words, masked to 9 bits, were
0x072, 0x017, 0x100 in this order. -/
def Obligations.TriggerMeansTheSignature : Prop :=
  ∀ (s : State) (a b c : Word), MainIdle s →
    ∃ t, RunsEach [.dmFeed a, .dmFeed b, .dmFeed c] s t ∧
      (trigger t = true ↔ a &&& 0x1FF = 0x072 ∧ b &&& 0x1FF = 0x017 ∧ c &&& 0x1FF = 0x100)

/-- R51, R303: every step keeps the matcher invariant: TRIG says whether the history holds the signature, OUT[11:9] is 0. -/
def Obligations.StepKeepsMatcherInv : Prop :=
  ∀ s t : State, MatcherInv s → step s = .next t → MatcherInv t

/-- R123: the output latches have one writer: no step changes OUT but the active context's DM.FEED, begun or in progress, or the s3
of its DSP.POLL. -/
def Obligations.OneWriterOfTheOutputs : Prop :=
  ∀ s t : State, step s = .next t → t.mat.out ≠ s.mat.out →
    (∃ w m, s.pos (active s) = .run (.dmFeed w) m) ∨ (∃ w, s.pos (active s) = .run .dspPoll (.pollS3 w)) ∨
      (active s = .main ∧ ∃ c cs w, s.host = c :: cs ∧ decode c = .ok (.dmFeed w))

/-! ### The checksum engine (R330 to R335) -/

/-- R330 to R334: CK.INIT loads CRC_INIT; CK.UPD shifts the word's low CRC_IN_BITS bits into the register one by one, from the top bit
down without CRC_REFIN and from bit 0 up with it, also where R333's remark on a word of zeros says otherwise (log 26); CK.RD
answers the register, turned end for end with CRC_REFOUT, under
CRC_XOROUT; nothing else changes. -/
def Obligations.ChecksumCommandsTakeEffect : Prop :=
  ∀ (s : State) (w : Word), MainIdle s →
    exec .ckInit s = .next { s with ckAcc := s.cfg.crcInit } ∧
    (∃ a : Nat → Word, a 0 = s.ckAcc ∧
      (∀ k, k < s.cfg.crcInBits → a (k + 1) = (a k <<< 1) ^^^
        (if w.getLsbD (if s.cfg.crcRefin then k else s.cfg.crcInBits - 1 - k) = (a k).getLsbD 15 then 0 else s.cfg.crcPoly)) ∧
      exec (.ckUpd w) s = .next { s with ckAcc := a s.cfg.crcInBits }) ∧
    ∃ r : Word, (∀ i, i < 16 → r.getLsbD i = s.ckAcc.getLsbD (if s.cfg.crcRefout then 15 - i else i)) ∧
      exec .ckRd s = .next { s with result := r ^^^ s.cfg.crcXorout }

/-- R335: CK.INIT, CK.UPD of each word, CK.RD answers the checksum FB.BUILD computes for the same words. -/
def Obligations.CkCalcAnswersTheFrameChecksum : Prop :=
  ∀ (s : State) (ws : List Word), MainIdle s →
    ∃ t, RunsEach (Pseudo.ckCalc ws).expand s t ∧ t.result = crc16 s.cfg ws ∧
      t = { s with ckAcc := t.ckAcc, result := t.result }

/-! ### The frame builder (R360 to R370) -/

/-- R361, R363, R365: FB.BUILD of MAIN makes every entry of the table: entry 0 the Disconnect frame, entry 1 the Choose-Slot frame,
entry 2 + s the Poll-Slot frame of slot s, each with its count, its core words and the checksum of exactly those words; BUILT
becomes 1; CKE.ACC, RESULT and everything else is unchanged. (The preamble is the configuration's, 0x01FF in the spec; that it may
have another value is the model's choice, log 28.) -/
def Obligations.FbBuildMakesTheTable : Prop :=
  ∀ s : State, MainIdle s →
    ∃ t, exec .fbBuild s = .next t ∧ t = { s with table := t.table, built := true } ∧
      t.table.length = s.cfg.maxSlots + 3 ∧
      ∀ (idx : Nat) (ws : List Word), idx < s.cfg.maxSlots + 3 →
        ws = (if idx = 0 then [s.cfg.preamble, s.cfg.lenDisc, s.cfg.opcDisc, s.cfg.discP0, s.cfg.discP1]
          else if idx = 1 then [s.cfg.preamble, s.cfg.lenChoose, s.cfg.opcChoose, BitVec.ofNat 16 (s.cfg.maxSlots - 1)]
          else [s.cfg.preamble, s.cfg.lenPoll, s.cfg.opcPoll, BitVec.ofNat 16 (idx - 2)]) →
        (entryAt t idx).count.toNat = ws.length ∧ (entryAt t idx).core.take ws.length = ws ∧
          (entryAt t idx).ck = crc16 s.cfg ws

/-- R362, R366 to R368: on a built table FB.RDW answers the wire word (a core word, then the checksum's high and low bytes), FB.LEN
the core word count, FB.CK the checksum; nothing else changes. -/
def Obligations.FrameReadsAnswerTheFrame : Prop :=
  ∀ (s : State) (idx : BitVec 9), MainIdle s → FrameInv s → s.built = true → idx.toNat < s.cfg.maxSlots + 3 →
    (∀ wire : BitVec 4, wire.toNat < (coreWords s.cfg idx.toNat).length + 2 →
      exec (.fbRdw idx wire) s = .next
        { s with result :=
            if wire.toNat < (coreWords s.cfg idx.toNat).length then (coreWords s.cfg idx.toNat).getD wire.toNat 0
            else if wire.toNat = (coreWords s.cfg idx.toNat).length then
              crc16 s.cfg (coreWords s.cfg idx.toNat) >>> 8
            else crc16 s.cfg (coreWords s.cfg idx.toNat) &&& 0x00FF }) ∧
    exec (.fbLen idx) s = .next { s with result := if idx = 0 then 5 else 4 } ∧
    exec (.fbCk idx) s = .next { s with result := crc16 s.cfg (coreWords s.cfg idx.toNat) }

/-- R366 to R369, R456: an index or wire position out of range raises FRAME_RANGE (0x07), built or not; in range, a table not built
raises TABLE_NOT_BUILT (0x06); nothing else changes. -/
def Obligations.FrameFaults : Prop :=
  ∀ (s : State) (idx : BitVec 9) (wire : BitVec 4), MainIdle s →
    (s.cfg.maxSlots + 3 ≤ idx.toNat →
      ∀ i ∈ [Instr.fbRdw idx wire, .fbLen idx, .fbCk idx, .fbEnq idx],
        exec i s = .next { s with err := ⟨if s.err.faulted then s.err.code else 0x07, true⟩ }) ∧
    ((if idx = 0 then 7 else 6) ≤ wire.toNat →
      exec (.fbRdw idx wire) s = .next { s with err := ⟨if s.err.faulted then s.err.code else 0x07, true⟩ }) ∧
    (idx.toNat < s.cfg.maxSlots + 3 → s.built = false →
      (∀ i ∈ [Instr.fbLen idx, .fbCk idx, .fbEnq idx],
        exec i s = .next { s with err := ⟨if s.err.faulted then s.err.code else 0x06, true⟩ }) ∧
      (wire.toNat < (if idx = 0 then 7 else 6) →
        exec (.fbRdw idx wire) s = .next { s with err := ⟨if s.err.faulted then s.err.code else 0x06, true⟩ }))

/-- R102, R121, R365: every step keeps the frame-table invariant: the table's shape, and once BUILT is 1 the content FB.BUILD
makes. -/
def Obligations.StepKeepsFrameInv : Prop :=
  ∀ s t : State, FrameInv s → step s = .next t → FrameInv t

/-- R369, R202: FB.ENQ of MAIN, PROD[TXQ], run without interruption on a TXQ with any number of free slots, appends the frame's first
wire words in order, as many as there are free slots and no more than the frame has, and drops the tail word by word: three steps
a word accepted, one a word dropped, and nothing but TXQ changes. On a full TXQ every word is dropped and nothing changes. -/
def Obligations.FbEnqEnqueuesTheFrame : Prop :=
  ∀ (s : State) (idx : BitVec 9) (n m : Nat), MainIdle s → s.cfg.ok = true → s.cfg.prod .txq = .main →
    QueueInv s.cfg s.txq → s.built = true → idx.toNat < s.cfg.maxSlots + 3 →
    n = (if idx = 0 then 7 else 6) → m = min n (s.cfg.capacity - 1 - s.txq.count s.cfg) →
    (∃ t, RunsTo (.fbEnq idx) (3 * m + (n - m)) s t ∧ t = { s with txq := t.txq } ∧ t.txq.r = s.txq.r ∧
      t.txq.w = (s.txq.w + m) % s.cfg.capacity ∧
      t.txq.contents s.cfg = s.txq.contents s.cfg ++ (List.range m).map (frameRead s idx.toNat)) ∧
    ((s.txq.w + 1) % s.cfg.capacity = s.txq.r → RunsTo (.fbEnq idx) n s s)

/-! ### Receive dispatch and the register port (R400 to R404) -/

/-- R400, R143: DSP.POLL of MAIN answers NO_DATA when nothing is held, and then changes only RESULT. A word without a fault flag is
popped, fed to the demultiplexer and answered, in three steps; a word with one ends the command at its second step, which then has
done what U.RXW on RX_CH does, and the matcher is untouched. The word is U.RXW's: bit 8 is 0 in 8-bit mode, also of a symbol held
from 9-bit mode (log 24). -/
def Obligations.DspPollFeedsFaultFreeWordsOnly : Prop :=
  ∀ s : State, MainIdle s → s.cfg.ok = true →
    ((s.chan s.cfg.rxCh).ctrl.en = false ∨ (s.chan s.cfg.rxCh).rxb = [] →
      exec .dspPoll s = .next { s with result := 1#16 <<< s.cfg.nodataBit }) ∧
    (∀ e es, (s.chan s.cfg.rxCh).ctrl.en = true → (s.chan s.cfg.rxCh).rxb = e :: es →
      (s.chan s.cfg.rxCh).oerr = false → e.ferr = false →
      ∀ w : Word, w = (if (s.chan s.cfg.rxCh).ctrl.nine then e.sym.setWidth 16 else e.sym.setWidth 16 &&& 0x00FF) →
      RunsTo .dspPoll 3 s
        { s.setChan s.cfg.rxCh { s.chan s.cfg.rxCh with rxb := es } with
          mat := s.mat.feed w
          result := w }) ∧
    (∀ e es, (s.chan s.cfg.rxCh).ctrl.en = true → (s.chan s.cfg.rxCh).rxb = e :: es →
      (s.chan s.cfg.rxCh).oerr = true ∨ e.ferr = true →
      ∃ t, RunsTo .dspPoll 2 s t ∧ exec (.uRxw s.cfg.rxCh) s = .next t ∧ t.mat = s.mat ∧
        (t.chan s.cfg.rxCh).rxb = es ∧
        t.result = (if e.ferr then 1#16 <<< s.cfg.ferrBit else 0) |||
          (if (s.chan s.cfg.rxCh).oerr then 1#16 <<< s.cfg.oerrBit else 0) |||
          (if (s.chan s.cfg.rxCh).ctrl.nine then e.sym.setWidth 16 else e.sym.setWidth 16 &&& 0x00FF))

/-- R103, R401: REG.RD of MAIN answers the register at each address of the map and changes nothing else; registers of channel 1
are there when NUM_CH is 2. (That an index above 65535 reads as its low 16 bits is the model's choice, log 20.) -/
def Obligations.RegRdAnswersTheRegister : Prop :=
  ∀ s : State, MainIdle s →
    (∀ p ∈ ([(0x00, (s.ctrl .ch0).toWord), (0x01, s.u0.stat), (0x02, s.u0.brg), (0x10, s.mat.out.setWidth 16),
        (0x11, s.mat.outdir.setWidth 16), (0x12, s.intctl.toWord), (0x14, s.mat.hist0.setWidth 16),
        (0x15, s.mat.hist1.setWidth 16), (0x16, s.mat.hist2.setWidth 16), (0x17, s.mat.hist3.setWidth 16),
        (0x18, s.ckAcc), (0x1F, s.err.toWord), (0x20, BitVec.ofNat 16 s.txq.r), (0x21, BitVec.ofNat 16 s.txq.w),
        (0x22, BitVec.ofNat 16 s.rxq.r), (0x23, BitVec.ofNat 16 s.rxq.w),
        (0x24, if s.built then 0x0001 else 0x0000)] : List (Byte × Word)),
      exec (.regRd p.1) s = .next { s with result := p.2 }) ∧
    (s.cfg.numCh = 2 →
      ∀ p ∈ ([(0x08, (s.ctrl .ch1).toWord), (0x09, s.u1.stat), (0x0A, s.u1.brg)] : List (Byte × Word)),
        exec (.regRd p.1) s = .next { s with result := p.2 })

/-- R34, R36, R58, R70, R140: the bits of the register words: CTRL, STAT, INTCTL and ERR, reserved bits 0. (RX9 is 0 in 8-bit mode also
for a symbol held from 9-bit mode: log 24.) -/
def Obligations.RegisterWordsHaveTheirBits : Prop :=
  (∀ (c : Ctrl) (k : Nat), c.toWord.getLsbD k =
    [c.en, c.rxen, c.txen, c.nine, c.rxie, c.txie, c.rxip, c.txip, c.de, c.tx9].getD k false) ∧
  (∀ (u : Channel) (k : Nat), u.stat.getLsbD k =
    [decide (u.rxb ≠ []), !u.thr.full, !u.thr.full && !u.tsr.full, (u.rxb.head?.map RxEntry.ferr).getD false, u.oerr,
      u.ctrl.nine && (u.rxb.head?.map fun e => e.sym.getLsbD 8).getD false, decide (u.seq.phase ≠ .idle)].getD k false) ∧
  (∀ (c : Intctl) (k : Nat), c.toWord.getLsbD k =
    [c.gieh, c.giel, c.tmrie, c.tmren, c.tickf, c.inlp, c.inhp].getD k false) ∧
  (∀ e : ErrReg, e.toWord.extractLsb' 0 8 = e.code ∧ e.toWord.getLsbD 8 = e.faulted ∧
    ∀ k, 9 ≤ k → e.toWord.getLsbD k = false)

/-- R103, R401, R402: an address outside the map raises REG_ADDR (0x09) for a read and for a write; the addresses of channel 1 do
so too when NUM_CH is 1. A write to a read-only register raises REG_RO (0x0A). Nothing else changes. -/
def Obligations.RegisterPortFaults : Prop :=
  ∀ (s : State) (addr : Byte) (v : Word), MainIdle s →
    (addr ∉ ([0x00, 0x01, 0x02, 0x08, 0x09, 0x0A, 0x10, 0x11, 0x12, 0x14, 0x15, 0x16, 0x17, 0x18, 0x1F, 0x20, 0x21, 0x22, 0x23,
        0x24] : List Byte) ∨
      (s.cfg.numCh = 1 ∧ addr ∈ ([0x08, 0x09, 0x0A] : List Byte)) →
      exec (.regRd addr) s = .next { s with err := ⟨if s.err.faulted then s.err.code else 0x09, true⟩ } ∧
      exec (.regWr addr v) s = .next { s with err := ⟨if s.err.faulted then s.err.code else 0x09, true⟩ }) ∧
    (addr ∈ ([0x01, 0x10, 0x14, 0x15, 0x16, 0x17, 0x18, 0x1F, 0x20, 0x21, 0x22, 0x23, 0x24] : List Byte) ∨
      (s.cfg.numCh = 2 ∧ addr = 0x09) →
      exec (.regWr addr v) s = .next { s with err := ⟨if s.err.faulted then s.err.code else 0x0A, true⟩ })

/-- R254, R263, R265, R403: REG.WR of MAIN to CTRL of a present channel writes the ten fields, DE held at 0 without direction control;
EN or TXEN falling empties the transmitter, RXEN falling clears OERR, and TRACE gains the changes of RXEN and DE in this order;
nothing else changes. -/
def Obligations.RegWrCtrlHasItsEdgeEffects : Prop :=
  ∀ (s : State) (ch : Chan) (v : Word), MainIdle s → s.cfg.present ch = true → ReceiveInv ch s →
    exec (.regWr (match ch with | .ch0 => 0x00 | .ch1 => 0x08) v) s = .next (s.setChan ch
      { s.chan ch with
        ctrl :=
          { en := v.getLsbD 0, rxen := v.getLsbD 1, txen := v.getLsbD 2, nine := v.getLsbD 3, rxie := v.getLsbD 4
            txie := v.getLsbD 5, rxip := v.getLsbD 6, txip := v.getLsbD 7, de := v.getLsbD 8 && s.cfg.hasDir ch
            tx9 := v.getLsbD 9 }
        thr := { (s.chan ch).thr with full := (s.chan ch).thr.full &&
          (!(s.chan ch).ctrl.en || v.getLsbD 0) && (!(s.chan ch).ctrl.txen || v.getLsbD 2) }
        tsr := { (s.chan ch).tsr with full := (s.chan ch).tsr.full &&
          (!(s.chan ch).ctrl.en || v.getLsbD 0) && (!(s.chan ch).ctrl.txen || v.getLsbD 2) }
        oerr := (s.chan ch).oerr && (!(s.chan ch).ctrl.rxen || v.getLsbD 1)
        trace := (s.chan ch).trace ++
          (if (s.chan ch).ctrl.rxen = v.getLsbD 1 then [] else [.rxen (v.getLsbD 1)]) ++
          (if (s.chan ch).ctrl.de = (v.getLsbD 8 && s.cfg.hasDir ch) then []
            else [.de (v.getLsbD 8 && s.cfg.hasDir ch)]) })

/-- R403: REG.WR of MAIN to BRG, OUTDIR and INTCTL; the read-only fields of INTCTL and everything else is unchanged. -/
def Obligations.RegWrOtherRegisters : Prop :=
  ∀ (s : State) (v : Word), MainIdle s →
    (∀ ch, s.cfg.present ch = true → exec (.regWr (match ch with | .ch0 => 0x02 | .ch1 => 0x0A) v) s =
      .next (s.setChan ch { s.chan ch with brg := v })) ∧
    exec (.regWr 0x11 v) s = .next { s with mat := { s.mat with outdir := v.setWidth 12 } } ∧
    exec (.regWr 0x12 v) s = .next { s with intctl :=
      { gieh := v.getLsbD 0, giel := v.getLsbD 1, tmrie := v.getLsbD 2, tmren := v.getLsbD 3
        tickf := s.intctl.tickf, inlp := s.intctl.inlp, inhp := s.intctl.inhp } }

/-! ### Faults and interrupts (R450 to R476) -/

/-- R450, R451: a command's step raises a fault when, begun with ERR clear, it leaves ERR.FAULTED set; whatever ERR holds, such a step
has a code of R450, keeps the first code in ERR.CODE and sets FAULTED, makes the context's position NONE (a handler ends, R471, in
the same step by log 12), and changes nothing else. A step that raises none leaves ERR alone. A second fault is covered as the
first. -/
def Obligations.AFaultChangesErrAndPositionOnly : Prop :=
  ∀ (s u : State) (i : Instr), exec i { s with err := ⟨0, false⟩ } = .next u →
    (u.err.faulted = true → ∃ k : FaultCode, u.err.code = faultByte k ∧
      exec i s = .next (leave (active s)
        { s with err := { code := if s.err.faulted then s.err.code else faultByte k, faulted := true } })) ∧
    (u.err.faulted = false → ∃ t, exec i s = .next t ∧ t.err = s.err)

/-- R70, R451: once a fault has occurred no step changes ERR: the first code stays until reset. -/
def Obligations.ErrIsSticky : Prop :=
  ∀ s t : State, step s = .next t → s.err.faulted = true → t.err = s.err

/-- R70, R450: every step keeps the fault register legal: CODE is NONE until a fault, then one of the codes of R450. -/
def Obligations.StepKeepsErrInv : Prop :=
  ∀ s t : State, ErrInv s → step s = .next t → ErrInv t

/-- R72, R471: RESULT belongs to MAIN: a step with a handler active never changes it. -/
def Obligations.HandlersLeaveResult : Prop :=
  ∀ s t : State, step s = .next t → active s ≠ .main → t.result = s.result

/-- R159: commands that return no value leave RESULT unchanged, in every context and at every microstep. -/
def Obligations.CommandsWithoutResultLeaveIt : Prop :=
  ∀ (s t : State) (i : Instr), exec i s = .next t →
    ((∃ q, i = .fqInit q) ∨ (∃ q v, i = .fqEnq q v) ∨ (∃ ch n m b, i = .uInit ch n m b) ∨ (∃ ch w, i = .uTxw ch w) ∨
      (∃ w, i = .dmFeed w) ∨ i = .fbBuild ∨ (∃ idx, i = .fbEnq idx) ∨ i = .ckInit ∨ (∃ w, i = .ckUpd w) ∨
      (∃ a v, i = .regWr a v)) →
    t.result = s.result

/-- R457, R458: what is pending at each level: a receive source routed by RXIP, a transmit source by TXIP, of a present channel; the
tick always at the low level. -/
def Obligations.PendingSourcesAreRouted : Prop :=
  ∀ s : State,
    (hpPend s = true ↔ ∃ ch, s.cfg.present ch = true ∧
      (((s.chan ch).ctrl.rxie = true ∧ (s.chan ch).ctrl.en = true ∧ (s.chan ch).rxb ≠ [] ∧ (s.chan ch).ctrl.rxip = true) ∨
        ((s.chan ch).ctrl.txie = true ∧ (s.chan ch).ctrl.txen = true ∧ (s.chan ch).thr.full = false ∧
          (s.chan ch).ctrl.txip = true))) ∧
    (lpPend s = true ↔ (s.intctl.tmrie = true ∧ s.intctl.tickf = true) ∨ ∃ ch, s.cfg.present ch = true ∧
      (((s.chan ch).ctrl.rxie = true ∧ (s.chan ch).ctrl.en = true ∧ (s.chan ch).rxb ≠ [] ∧ (s.chan ch).ctrl.rxip = false) ∨
        ((s.chan ch).ctrl.txie = true ∧ (s.chan ch).ctrl.txen = true ∧ (s.chan ch).thr.full = false ∧
          (s.chan ch).ctrl.txip = false)))

/-- R460, R461, R465: the processor's step takes HP entry when it is enabled, else LP entry when that is, before the active context
does anything; the entry sets INHP, or sets INLP and clears TICKF, gives the handler its start, and changes nothing else. -/
def Obligations.InterruptEntryComesFirst : Prop :=
  ∀ (s : State) (cs : List Choice), s.cfg.ok = true → s.sched = .proc :: cs → s.intctl.gieh = true →
    s.intctl.inhp = false →
    (hpPend s = true → step s = .next
      { s with sched := cs, intctl := { s.intctl with inhp := true }, posHp := .hpStart }) ∧
    (hpPend s = false → lpPend s = true → s.intctl.giel = true → s.intctl.inlp = false → step s = .next
      { s with
        sched := cs
        intctl := { s.intctl with inlp := true, tickf := false }
        posLp := .run (.fqEmpty .txq) .start })

/-- R472: the step after HP entry is HP's return: INHP falls, POS[HP] is NONE, and nothing else changes. -/
def Obligations.HpHandlerReturnsAtOnce : Prop :=
  ∀ (s : State) (cs : List Choice), s.cfg.ok = true → s.sched = .proc :: cs → s.intctl.inhp = true → s.posHp = .hpStart →
    step s = .next { s with sched := cs, intctl := { s.intctl with inhp := false }, posHp := .none }

/-- R470, R471: the LP drain. L1 returns on an empty TXQ and goes to L2 otherwise; L2 takes the oldest word and goes to L3 with it;
the last phase of L3 goes back to L1 (its first step and its other phases are in `UTxwBeginsOrIsBusy` and
`UTxwPhasesTakeTheirEffect`); an L3 that finds the sequencer busy raises SEQ_BUSY (0x08), which ends the handler. RESULT is
never written. (That a return shares the step of the command it follows is the model's reading, log 12.) -/
def Obligations.LpDrainFollowsItsSteps : Prop :=
  ∀ s : State, active s = .lp →
    (s.posLp = .run (.fqEmpty .txq) .start → s.txq.r = s.txq.w →
      RunsTo (.fqEmpty .txq) 2 s { s with posLp := .none, intctl := { s.intctl with inlp := false } }) ∧
    (s.posLp = .run (.fqEmpty .txq) .start → s.txq.r ≠ s.txq.w →
      RunsTo (.fqEmpty .txq) 2 s { s with posLp := .run (.fqDeq .txq) .start }) ∧
    (s.posLp = .run (.fqDeq .txq) .start → s.cfg.cons .txq = .lp → s.txq.r < s.cfg.capacity → s.txq.r ≠ s.txq.w →
      RunsTo (.fqDeq .txq) 3 s { s with
        txq := { s.txq with r := (s.txq.r + 1) % s.cfg.capacity }
        posLp := .run (.uTxw s.cfg.txCh (s.txq.slot.read s.txq.r)) .start }) ∧
    (∀ w, s.posLp = .run (.uTxw s.cfg.txCh w) .inSeq → (s.chan s.cfg.txCh).seq.phase = .deOff →
      ∃ t, exec (.uTxw s.cfg.txCh w) s = .next t ∧ t.posLp = .run (.fqEmpty .txq) .start ∧ t.result = s.result ∧
        (t.chan s.cfg.txCh).seq.phase = .idle) ∧
    (∀ w, s.posLp = .run (.uTxw s.cfg.txCh w) .start → s.cfg.present s.cfg.txCh = true →
      (s.chan s.cfg.txCh).seq.phase ≠ .idle →
      exec (.uTxw s.cfg.txCh w) s = .next
        { s with
          posLp := .none
          intctl := { s.intctl with inlp := false }
          err := ⟨if s.err.faulted then s.err.code else 0x08, true⟩ })

/-- R461, R462, R470: every step keeps the handlers in their places: a handler is active exactly when it has a position, and that
position is one of the fixed handlers'. -/
def Obligations.StepKeepsHandlerInv : Prop :=
  ∀ s t : State, HandlerInv s → step s = .next t → HandlerInv t

/-- R476: the tick sets TICKF when TMREN is 1 and changes nothing else. With TMREN 0 the spec gives the timer no step; that the choice
is then a step that changes nothing is the model's (log 16). -/
def Obligations.TickSetsTickf : Prop :=
  ∀ (s : State) (cs : List Choice), s.cfg.ok = true → s.sched = .tmr :: cs →
    step s = .next
      { s with sched := cs, intctl := { s.intctl with tickf := s.intctl.tickf || s.intctl.tmren } }

/-- R252, R476: in a fair run a shifter load never stays enabled for ever (the byte is taken, or something disables the load), and
from every moment after which TMREN stays 1 a tick comes: TICKF is set by some later step. -/
def Obligations.FairRunsLoadAndTick : Prop :=
  ∀ (c : Nat → Choice) (σ : Nat → State), FairRun c σ →
    (∀ ch n, ∃ m, n ≤ m ∧ loadEnabled ch (σ m) = false) ∧
    ∀ n, (∀ m, n ≤ m → (σ m).intctl.tmren = true) → ∃ m, n ≤ m ∧ c m = .tmr ∧ (σ (m + 1)).intctl.tickf = true

/-! ### Reset (R500) -/

/-- R500: after reset, under every configuration, every element the spec gives a reset value has it. -/
def Obligations.ResetLeavesTheStatedValues : Prop :=
  ∀ g : Cfg, (∀ x, (State.resetWith g).pos x = .none) ∧
    (∀ q, ((State.resetWith g).fifo q).r = 0 ∧ ((State.resetWith g).fifo q).w = 0) ∧
    (∀ ch, ((State.resetWith g).ctrl ch).toWord = 0x0000 ∧ ((State.resetWith g).chan ch).stat = 0x0006 ∧
      ((State.resetWith g).chan ch).brg = 0x0000 ∧ ((State.resetWith g).chan ch).thr.full = false ∧
      ((State.resetWith g).chan ch).tsr.full = false ∧ ((State.resetWith g).chan ch).rxb = [] ∧
      ((State.resetWith g).chan ch).oerr = false ∧ ((State.resetWith g).chan ch).seq.phase = .idle ∧
      ((State.resetWith g).chan ch).trace = []) ∧
    (State.resetWith g).mat = ⟨0, 0, 0, 0, 0, 0⟩ ∧ (State.resetWith g).ckAcc = g.crcInit ∧
    (State.resetWith g).built = false ∧ (State.resetWith g).intctl.toWord = 0x0000 ∧
    (State.resetWith g).err.toWord = 0x0000 ∧ (State.resetWith g).result = 0x0000

/-- The invariants hold right after reset, under every legal configuration. -/
def Obligations.ResetHasTheInvariants : Prop :=
  ∀ g : Cfg, g.ok = true →
    FifoInv (State.resetWith g) ∧ (∀ ch, SeqInv ch (State.resetWith g)) ∧ (∀ ch, ReceiveInv ch (State.resetWith g)) ∧
      MatcherInv (State.resetWith g) ∧ FrameInv (State.resetWith g) ∧ ErrInv (State.resetWith g)
end

