-- ==== Sys2Proof/Laws/Decode.lean ====
section
/-! SUPPORT. The fields of a packed command word, and the fields as bits. -/

namespace Sys2Proof

/-- The bits of a packed word, field by field (R148). -/
theorem packFields_getLsbD (op : Byte) (sel flg : BitVec 4) (imm : Word) (i : Nat) :
    (packFields op sel flg imm).getLsbD i =
      if i < 16 then imm.getLsbD i else if i < 20 then flg.getLsbD (i - 16)
      else if i < 24 then sel.getLsbD (i - 20) else op.getLsbD (i - 24) := by
  simp only [packFields, BitVec.getLsbD_append]
  split
  · rfl
  · split
    · next h1 h2 => simp [show i < 20 by omega]
    · next h1 h2 =>
      have e1 : i - 16 - 4 = i - 20 := by omega
      split
      · next h3 => simp [show ¬ i < 20 by omega, show i < 24 by omega, e1]
      · next h3 => simp [show ¬ i < 20 by omega, show ¬ i < 24 by omega, show i - 16 - 4 - 4 = i - 24 by omega]

@[simp] theorem fieldOp_packFields (op : Byte) (sel flg : BitVec 4) (imm : Word) : fieldOp (packFields op sel flg imm) = op := by
  apply BitVec.eq_of_getLsbD_eq
  intro i hi
  simp only [fieldOp, BitVec.getLsbD_extractLsb', packFields_getLsbD, decide_eq_true hi, Bool.true_and]
  rw [if_neg (by omega), if_neg (by omega), if_neg (by omega), Nat.add_sub_cancel_left]

@[simp] theorem fieldSel_packFields (op : Byte) (sel flg : BitVec 4) (imm : Word) : fieldSel (packFields op sel flg imm) = sel := by
  apply BitVec.eq_of_getLsbD_eq
  intro i hi
  simp only [fieldSel, BitVec.getLsbD_extractLsb', packFields_getLsbD, decide_eq_true hi, Bool.true_and]
  rw [if_neg (by omega), if_neg (by omega), if_pos (by omega), Nat.add_sub_cancel_left]

@[simp] theorem fieldFlg_packFields (op : Byte) (sel flg : BitVec 4) (imm : Word) : fieldFlg (packFields op sel flg imm) = flg := by
  apply BitVec.eq_of_getLsbD_eq
  intro i hi
  simp only [fieldFlg, BitVec.getLsbD_extractLsb', packFields_getLsbD, decide_eq_true hi, Bool.true_and]
  rw [if_neg (by omega), if_pos (by omega), Nat.add_sub_cancel_left]

@[simp] theorem fieldImm_packFields (op : Byte) (sel flg : BitVec 4) (imm : Word) : fieldImm (packFields op sel flg imm) = imm := by
  apply BitVec.eq_of_getLsbD_eq
  intro i hi
  simp only [fieldImm, BitVec.getLsbD_extractLsb', packFields_getLsbD, decide_eq_true hi, Bool.true_and]
  rw [if_pos (by omega), Nat.zero_add]

/-- ADDR is SEL above FLG (R148, format R). -/
@[simp] theorem fieldAddr_packFields (op : Byte) (sel flg : BitVec 4) (imm : Word) :
    fieldAddr (packFields op sel flg imm) = (sel ++ flg : BitVec (4 + 4)) := by
  apply BitVec.eq_of_getLsbD_eq
  intro i hi
  rw [BitVec.getLsbD_append]
  simp only [fieldAddr, BitVec.getLsbD_extractLsb', packFields_getLsbD, decide_eq_true hi, Bool.true_and]
  by_cases h : i < 4
  · simp only [if_neg (show ¬ 16 + i < 16 by omega), if_pos (show 16 + i < 20 by omega), if_pos h, Nat.add_sub_cancel_left]
  · simp only [if_neg (show ¬ 16 + i < 16 by omega), if_neg (show ¬ 16 + i < 20 by omega),
      if_pos (show 16 + i < 24 by omega), if_neg h, show 16 + i - 20 = i - 4 by omega]

@[simp] theorem queueOfSel_selOfQueue (q : Queue) : queueOfSel (selOfQueue q) = q := by
  cases q <;> decide

@[simp] theorem chanOfSel_selOfChan (ch : Chan) : chanOfSel (selOfChan ch) = ch := by
  cases ch <;> decide

/-- The two halves of an address make the address. -/
@[simp] theorem addr_halves (a : Byte) : (a.extractLsb' 4 4 ++ a.extractLsb' 0 4 : BitVec (4 + 4)) = a := by
  apply BitVec.eq_of_getLsbD_eq
  intro i hi
  rw [BitVec.getLsbD_append]
  split
  · next h => simp [h]
  · next h => simp [show i - 4 < 4 by omega, show 4 + (i - 4) = i by omega]

@[simp] theorem indexOfImm_setWidth (idx : BitVec 9) : indexOfImm (idx.setWidth 16) = idx := by
  apply BitVec.eq_of_getLsbD_eq
  intro i hi
  simp [indexOfImm, hi]
  intros
  omega

/-- A word meets a must-be-zero mask when the mask's bits are 0 in it (R153). -/
theorem and_mask_eq_zero {c m : Command} : c &&& m = 0 ↔ ∀ i, i < 32 → m.getLsbD i = true → c.getLsbD i = false := by
  constructor
  · intro h i hi hm
    have := congrArg (fun x : Command => x.getLsbD i) h
    simpa [hm] using this
  · intro h
    apply BitVec.eq_of_getLsbD_eq
    intro i hi
    have := h i hi
    cases hm : m.getLsbD i <;> simp_all

end Sys2Proof
end

