-- ==== Sys2Proof/Laws/Memory.lean ====
section
/-! SUPPORT. The laws of the FIFO storage: read after write, and every write keeps the canonical form. -/

namespace Sys2Proof.Machine

theorem Memory.read_nil (a : Nat) : Memory.read [] a = unlistedWord := rfl

/-- A pair put in front is read at its own index. -/
theorem Memory.read_consCanon_same (a : Nat) (v : Word) (m : Memory) (h : Memory.read m a = unlistedWord) :
    (Memory.consCanon a v m).read a = v := by
  unfold Memory.consCanon
  split
  · next hv => rw [h, hv]
  · simp [Memory.read]

/-- A pair put in front is not read elsewhere. -/
theorem Memory.read_consCanon_other {a b : Nat} (v : Word) (m : Memory) (h : b ≠ a) :
    (Memory.consCanon a v m).read b = m.read b := by
  unfold Memory.consCanon
  split
  · rfl
  · simp [Memory.read, h]

theorem Memory.wfAbove_mono {lo hi : Nat} (hle : lo ≤ hi) {m : Memory} (h : m.wfAbove hi = true) : m.wfAbove lo = true := by
  cases m with
  | nil => rfl
  | cons p m =>
    simp only [Memory.wfAbove, Bool.and_eq_true, decide_eq_true_eq] at h ⊢
    exact ⟨⟨hle.trans h.1.1, h.1.2⟩, h.2⟩

/-- Below its first index a canonical memory lists nothing. -/
theorem Memory.read_below {lo a : Nat} {m : Memory} (h : m.wfAbove lo = true) (ha : a < lo) : m.read a = unlistedWord := by
  induction m generalizing lo with
  | nil => rfl
  | cons p m ih =>
    simp only [Memory.wfAbove, Bool.and_eq_true, decide_eq_true_eq] at h
    have hne : a ≠ p.1 := by omega
    simp only [Memory.read, hne, if_false]
    exact ih h.2 (by omega)

theorem Memory.consCanon_wf {lo a : Nat} {v : Word} {m : Memory} (ha : lo ≤ a) (h : m.wfAbove (a + 1) = true) :
    (Memory.consCanon a v m).wfAbove lo = true := by
  unfold Memory.consCanon
  split
  · exact wfAbove_mono (by omega) h
  · next hv => simp [Memory.wfAbove, ha, hv, h]

/-- A write keeps the canonical form. -/
theorem Memory.write_wfAbove {lo a : Nat} {v : Word} {m : Memory} (ha : lo ≤ a) (h : m.wfAbove lo = true) :
    (m.write a v).wfAbove lo = true := by
  induction m generalizing lo with
  | nil => exact consCanon_wf ha rfl
  | cons p m ih =>
    simp only [Memory.wfAbove, Bool.and_eq_true, decide_eq_true_eq] at h
    simp only [Memory.write]
    split
    · next hlt => exact consCanon_wf ha (by simp [Memory.wfAbove, h.1.2, h.2]; omega)
    · split
      · next heq => exact consCanon_wf ha (by rw [heq]; exact h.2)
      · simp only [Memory.wfAbove, Bool.and_eq_true, decide_eq_true_eq]
        exact ⟨h.1, ih (by omega) h.2⟩

/-- Every memory operation keeps the canonical form: MemWrite is the only one that writes. -/
theorem Memory.write_wf {a : Nat} {v : Word} {m : Memory} (h : m.wf = true) : (m.write a v).wf = true :=
  write_wfAbove (Nat.zero_le a) h

/-- A read after a write to the same slot gives the value written. -/
theorem Memory.read_write_same {lo a : Nat} {v : Word} {m : Memory} (h : m.wfAbove lo = true) : (m.write a v).read a = v := by
  induction m generalizing lo with
  | nil => exact read_consCanon_same a v [] rfl
  | cons p m ih =>
    have h' := h
    simp only [Memory.wfAbove, Bool.and_eq_true, decide_eq_true_eq] at h'
    simp only [Memory.write]
    split
    · next hlt =>
      exact read_consCanon_same _ _ _ (read_below (lo := p.1) (by simp [Memory.wfAbove, h'.1.2, h'.2]) hlt)
    · split
      · next heq => exact read_consCanon_same _ _ _ (read_below h'.2 (by omega))
      · next hne => simp only [Memory.read, hne, if_false]; exact ih h'.2

/-- A write leaves every other slot alone. -/
theorem Memory.read_write_other {a b : Nat} (v : Word) (m : Memory) (hb : b ≠ a) : (m.write a v).read b = m.read b := by
  induction m with
  | nil => exact read_consCanon_other v [] hb
  | cons p m ih =>
    simp only [Memory.write]
    split
    · exact read_consCanon_other v _ hb
    · split
      · next heq =>
        rw [read_consCanon_other v _ hb]
        simp [Memory.read, show b ≠ p.1 by omega]
      · simp only [Memory.read, ih]

/-- A write lists no slot but the one written. -/
theorem Memory.mem_write {a : Nat} {v : Word} {m : Memory} {p : Nat × Word} (h : p ∈ m.write a v) : p.1 = a ∨ p ∈ m := by
  induction m with
  | nil =>
    simp only [Memory.write, Memory.consCanon] at h
    split at h
    · exact .inr h
    · exact .inl (by simp_all)
  | cons q m ih =>
    simp only [Memory.write, Memory.consCanon] at h
    split at h <;> split at h <;> try split at h
    all_goals simp only [List.mem_cons] at h ⊢
    all_goals grind

end Sys2Proof.Machine
end

