-- ==== Sys2Proof/Laws/State.lean ====
section
/-! SUPPORT. The small lemmas of the state's updates: one per field per update, so that no proof unfolds a record update. -/

namespace Sys2Proof.Machine

/-! ### setFifo -/

@[simp] theorem setFifo_cfg (s : State) (q : Queue) (f : Fifo) : (s.setFifo q f).cfg = s.cfg := by
  cases q <;> rfl

@[simp] theorem setFifo_u0 (s : State) (q : Queue) (f : Fifo) : (s.setFifo q f).u0 = s.u0 := by
  cases q <;> rfl

@[simp] theorem setFifo_u1 (s : State) (q : Queue) (f : Fifo) : (s.setFifo q f).u1 = s.u1 := by
  cases q <;> rfl

@[simp] theorem setFifo_mat (s : State) (q : Queue) (f : Fifo) : (s.setFifo q f).mat = s.mat := by
  cases q <;> rfl

@[simp] theorem setFifo_ckAcc (s : State) (q : Queue) (f : Fifo) : (s.setFifo q f).ckAcc = s.ckAcc := by
  cases q <;> rfl

@[simp] theorem setFifo_built (s : State) (q : Queue) (f : Fifo) : (s.setFifo q f).built = s.built := by
  cases q <;> rfl

@[simp] theorem setFifo_table (s : State) (q : Queue) (f : Fifo) : (s.setFifo q f).table = s.table := by
  cases q <;> rfl

@[simp] theorem setFifo_intctl (s : State) (q : Queue) (f : Fifo) : (s.setFifo q f).intctl = s.intctl := by
  cases q <;> rfl

@[simp] theorem setFifo_err (s : State) (q : Queue) (f : Fifo) : (s.setFifo q f).err = s.err := by
  cases q <;> rfl

@[simp] theorem setFifo_result (s : State) (q : Queue) (f : Fifo) : (s.setFifo q f).result = s.result := by
  cases q <;> rfl

@[simp] theorem setFifo_posMain (s : State) (q : Queue) (f : Fifo) : (s.setFifo q f).posMain = s.posMain := by
  cases q <;> rfl

@[simp] theorem setFifo_posLp (s : State) (q : Queue) (f : Fifo) : (s.setFifo q f).posLp = s.posLp := by
  cases q <;> rfl

@[simp] theorem setFifo_posHp (s : State) (q : Queue) (f : Fifo) : (s.setFifo q f).posHp = s.posHp := by
  cases q <;> rfl

@[simp] theorem setFifo_host (s : State) (q : Queue) (f : Fifo) : (s.setFifo q f).host = s.host := by
  cases q <;> rfl

@[simp] theorem setFifo_sched (s : State) (q : Queue) (f : Fifo) : (s.setFifo q f).sched = s.sched := by
  cases q <;> rfl

@[simp] theorem setFifo_seed (s : State) (q : Queue) (f : Fifo) : (s.setFifo q f).seed = s.seed := by
  cases q <;> rfl

@[simp] theorem setFifo_fifo_same (s : State) (q : Queue) (f : Fifo) : (s.setFifo q f).fifo q = f := by
  cases q <;> rfl

theorem setFifo_fifo_other (s : State) {q p : Queue} (f : Fifo) (h : p ≠ q) : (s.setFifo q f).fifo p = s.fifo p := by
  cases q <;> cases p <;> first | rfl | exact absurd rfl h

@[simp] theorem setFifo_self (s : State) (q : Queue) : s.setFifo q (s.fifo q) = s := by
  cases q <;> rfl

@[simp] theorem setFifo_chan (s : State) (q : Queue) (f : Fifo) (ch : Chan) : (s.setFifo q f).chan ch = s.chan ch := by
  cases q <;> cases ch <;> rfl

@[simp] theorem setFifo_pos (s : State) (q : Queue) (f : Fifo) (x : Ctx) : (s.setFifo q f).pos x = s.pos x := by
  cases q <;> cases x <;> rfl

/-! ### setChan -/

@[simp] theorem setChan_cfg (s : State) (ch : Chan) (u : Channel) : (s.setChan ch u).cfg = s.cfg := by
  cases ch <;> rfl

@[simp] theorem setChan_txq (s : State) (ch : Chan) (u : Channel) : (s.setChan ch u).txq = s.txq := by
  cases ch <;> rfl

@[simp] theorem setChan_rxq (s : State) (ch : Chan) (u : Channel) : (s.setChan ch u).rxq = s.rxq := by
  cases ch <;> rfl

@[simp] theorem setChan_mat (s : State) (ch : Chan) (u : Channel) : (s.setChan ch u).mat = s.mat := by
  cases ch <;> rfl

@[simp] theorem setChan_ckAcc (s : State) (ch : Chan) (u : Channel) : (s.setChan ch u).ckAcc = s.ckAcc := by
  cases ch <;> rfl

@[simp] theorem setChan_built (s : State) (ch : Chan) (u : Channel) : (s.setChan ch u).built = s.built := by
  cases ch <;> rfl

@[simp] theorem setChan_table (s : State) (ch : Chan) (u : Channel) : (s.setChan ch u).table = s.table := by
  cases ch <;> rfl

@[simp] theorem setChan_intctl (s : State) (ch : Chan) (u : Channel) : (s.setChan ch u).intctl = s.intctl := by
  cases ch <;> rfl

@[simp] theorem setChan_err (s : State) (ch : Chan) (u : Channel) : (s.setChan ch u).err = s.err := by
  cases ch <;> rfl

@[simp] theorem setChan_result (s : State) (ch : Chan) (u : Channel) : (s.setChan ch u).result = s.result := by
  cases ch <;> rfl

@[simp] theorem setChan_posMain (s : State) (ch : Chan) (u : Channel) : (s.setChan ch u).posMain = s.posMain := by
  cases ch <;> rfl

@[simp] theorem setChan_posLp (s : State) (ch : Chan) (u : Channel) : (s.setChan ch u).posLp = s.posLp := by
  cases ch <;> rfl

@[simp] theorem setChan_posHp (s : State) (ch : Chan) (u : Channel) : (s.setChan ch u).posHp = s.posHp := by
  cases ch <;> rfl

@[simp] theorem setChan_host (s : State) (ch : Chan) (u : Channel) : (s.setChan ch u).host = s.host := by
  cases ch <;> rfl

@[simp] theorem setChan_sched (s : State) (ch : Chan) (u : Channel) : (s.setChan ch u).sched = s.sched := by
  cases ch <;> rfl

@[simp] theorem setChan_seed (s : State) (ch : Chan) (u : Channel) : (s.setChan ch u).seed = s.seed := by
  cases ch <;> rfl

@[simp] theorem setChan_chan_same (s : State) (ch : Chan) (u : Channel) : (s.setChan ch u).chan ch = u := by
  cases ch <;> rfl

theorem setChan_chan_other (s : State) {ch c : Chan} (u : Channel) (h : c ≠ ch) : (s.setChan ch u).chan c = s.chan c := by
  cases ch <;> cases c <;> first | rfl | exact absurd rfl h

@[simp] theorem setChan_self (s : State) (ch : Chan) : s.setChan ch (s.chan ch) = s := by
  cases ch <;> rfl

@[simp] theorem setChan_setChan (s : State) (ch : Chan) (u v : Channel) : (s.setChan ch u).setChan ch v = s.setChan ch v := by
  cases ch <;> rfl

@[simp] theorem setChan_fifo (s : State) (ch : Chan) (u : Channel) (q : Queue) : (s.setChan ch u).fifo q = s.fifo q := by
  cases ch <;> cases q <;> rfl

@[simp] theorem setChan_pos (s : State) (ch : Chan) (u : Channel) (x : Ctx) : (s.setChan ch u).pos x = s.pos x := by
  cases ch <;> cases x <;> rfl

/-! ### setPos -/

@[simp] theorem setPos_cfg (s : State) (x : Ctx) (p : Pos) : (s.setPos x p).cfg = s.cfg := by
  cases x <;> rfl

@[simp] theorem setPos_txq (s : State) (x : Ctx) (p : Pos) : (s.setPos x p).txq = s.txq := by
  cases x <;> rfl

@[simp] theorem setPos_rxq (s : State) (x : Ctx) (p : Pos) : (s.setPos x p).rxq = s.rxq := by
  cases x <;> rfl

@[simp] theorem setPos_u0 (s : State) (x : Ctx) (p : Pos) : (s.setPos x p).u0 = s.u0 := by
  cases x <;> rfl

@[simp] theorem setPos_u1 (s : State) (x : Ctx) (p : Pos) : (s.setPos x p).u1 = s.u1 := by
  cases x <;> rfl

@[simp] theorem setPos_mat (s : State) (x : Ctx) (p : Pos) : (s.setPos x p).mat = s.mat := by
  cases x <;> rfl

@[simp] theorem setPos_ckAcc (s : State) (x : Ctx) (p : Pos) : (s.setPos x p).ckAcc = s.ckAcc := by
  cases x <;> rfl

@[simp] theorem setPos_built (s : State) (x : Ctx) (p : Pos) : (s.setPos x p).built = s.built := by
  cases x <;> rfl

@[simp] theorem setPos_table (s : State) (x : Ctx) (p : Pos) : (s.setPos x p).table = s.table := by
  cases x <;> rfl

@[simp] theorem setPos_intctl (s : State) (x : Ctx) (p : Pos) : (s.setPos x p).intctl = s.intctl := by
  cases x <;> rfl

@[simp] theorem setPos_err (s : State) (x : Ctx) (p : Pos) : (s.setPos x p).err = s.err := by
  cases x <;> rfl

@[simp] theorem setPos_result (s : State) (x : Ctx) (p : Pos) : (s.setPos x p).result = s.result := by
  cases x <;> rfl

@[simp] theorem setPos_host (s : State) (x : Ctx) (p : Pos) : (s.setPos x p).host = s.host := by
  cases x <;> rfl

@[simp] theorem setPos_sched (s : State) (x : Ctx) (p : Pos) : (s.setPos x p).sched = s.sched := by
  cases x <;> rfl

@[simp] theorem setPos_seed (s : State) (x : Ctx) (p : Pos) : (s.setPos x p).seed = s.seed := by
  cases x <;> rfl

@[simp] theorem setPos_pos_same (s : State) (x : Ctx) (p : Pos) : (s.setPos x p).pos x = p := by
  cases x <;> rfl

theorem setPos_pos_other (s : State) {x y : Ctx} (p : Pos) (h : y ≠ x) : (s.setPos x p).pos y = s.pos y := by
  cases x <;> cases y <;> first | rfl | exact absurd rfl h

@[simp] theorem setPos_self (s : State) (x : Ctx) : s.setPos x (s.pos x) = s := by
  cases x <;> rfl

@[simp] theorem setPos_setPos (s : State) (x : Ctx) (p r : Pos) : (s.setPos x p).setPos x r = s.setPos x r := by
  cases x <;> rfl

@[simp] theorem setPos_fifo (s : State) (x : Ctx) (p : Pos) (q : Queue) : (s.setPos x p).fifo q = s.fifo q := by
  cases x <;> cases q <;> rfl

@[simp] theorem setPos_chan (s : State) (x : Ctx) (p : Pos) (ch : Chan) : (s.setPos x p).chan ch = s.chan ch := by
  cases x <;> cases ch <;> rfl

/-! ### leave -/

@[simp] theorem leave_cfg (x : Ctx) (s : State) : (leave x s).cfg = s.cfg := by
  cases x <;> rfl

@[simp] theorem leave_txq (x : Ctx) (s : State) : (leave x s).txq = s.txq := by
  cases x <;> rfl

@[simp] theorem leave_rxq (x : Ctx) (s : State) : (leave x s).rxq = s.rxq := by
  cases x <;> rfl

@[simp] theorem leave_u0 (x : Ctx) (s : State) : (leave x s).u0 = s.u0 := by
  cases x <;> rfl

@[simp] theorem leave_u1 (x : Ctx) (s : State) : (leave x s).u1 = s.u1 := by
  cases x <;> rfl

@[simp] theorem leave_mat (x : Ctx) (s : State) : (leave x s).mat = s.mat := by
  cases x <;> rfl

@[simp] theorem leave_ckAcc (x : Ctx) (s : State) : (leave x s).ckAcc = s.ckAcc := by
  cases x <;> rfl

@[simp] theorem leave_built (x : Ctx) (s : State) : (leave x s).built = s.built := by
  cases x <;> rfl

@[simp] theorem leave_table (x : Ctx) (s : State) : (leave x s).table = s.table := by
  cases x <;> rfl

@[simp] theorem leave_err (x : Ctx) (s : State) : (leave x s).err = s.err := by
  cases x <;> rfl

@[simp] theorem leave_result (x : Ctx) (s : State) : (leave x s).result = s.result := by
  cases x <;> rfl

@[simp] theorem leave_host (x : Ctx) (s : State) : (leave x s).host = s.host := by
  cases x <;> rfl

@[simp] theorem leave_sched (x : Ctx) (s : State) : (leave x s).sched = s.sched := by
  cases x <;> rfl

@[simp] theorem leave_seed (x : Ctx) (s : State) : (leave x s).seed = s.seed := by
  cases x <;> rfl

@[simp] theorem leave_pos_same (x : Ctx) (s : State) : (leave x s).pos x = .none := by
  cases x <;> rfl

theorem leave_pos_other {x y : Ctx} (s : State) (h : y ≠ x) : (leave x s).pos y = s.pos y := by
  cases x <;> cases y <;> first | rfl | exact absurd rfl h

@[simp] theorem leave_fifo (x : Ctx) (s : State) (q : Queue) : (leave x s).fifo q = s.fifo q := by
  cases x <;> cases q <;> rfl

@[simp] theorem leave_chan (x : Ctx) (s : State) (ch : Chan) : (leave x s).chan ch = s.chan ch := by
  cases x <;> cases ch <;> rfl

/-! ### complete -/

@[simp] theorem complete_cfg (i : Instr) (res : Option Word) (s : State) : (complete i res s).cfg = s.cfg := by
  unfold complete; split <;> first | rfl | (split <;> simp)

@[simp] theorem complete_txq (i : Instr) (res : Option Word) (s : State) : (complete i res s).txq = s.txq := by
  unfold complete; split <;> first | rfl | (split <;> simp)

@[simp] theorem complete_rxq (i : Instr) (res : Option Word) (s : State) : (complete i res s).rxq = s.rxq := by
  unfold complete; split <;> first | rfl | (split <;> simp)

@[simp] theorem complete_u0 (i : Instr) (res : Option Word) (s : State) : (complete i res s).u0 = s.u0 := by
  unfold complete; split <;> first | rfl | (split <;> simp)

@[simp] theorem complete_u1 (i : Instr) (res : Option Word) (s : State) : (complete i res s).u1 = s.u1 := by
  unfold complete; split <;> first | rfl | (split <;> simp)

@[simp] theorem complete_mat (i : Instr) (res : Option Word) (s : State) : (complete i res s).mat = s.mat := by
  unfold complete; split <;> first | rfl | (split <;> simp)

@[simp] theorem complete_ckAcc (i : Instr) (res : Option Word) (s : State) : (complete i res s).ckAcc = s.ckAcc := by
  unfold complete; split <;> first | rfl | (split <;> simp)

@[simp] theorem complete_built (i : Instr) (res : Option Word) (s : State) : (complete i res s).built = s.built := by
  unfold complete; split <;> first | rfl | (split <;> simp)

@[simp] theorem complete_table (i : Instr) (res : Option Word) (s : State) : (complete i res s).table = s.table := by
  unfold complete; split <;> first | rfl | (split <;> simp)

@[simp] theorem complete_err (i : Instr) (res : Option Word) (s : State) : (complete i res s).err = s.err := by
  unfold complete; split <;> first | rfl | (split <;> simp)

@[simp] theorem complete_host (i : Instr) (res : Option Word) (s : State) : (complete i res s).host = s.host := by
  unfold complete; split <;> first | rfl | (split <;> simp)

@[simp] theorem complete_sched (i : Instr) (res : Option Word) (s : State) : (complete i res s).sched = s.sched := by
  unfold complete; split <;> first | rfl | (split <;> simp)

@[simp] theorem complete_seed (i : Instr) (res : Option Word) (s : State) : (complete i res s).seed = s.seed := by
  unfold complete; split <;> first | rfl | (split <;> simp)

@[simp] theorem complete_fifo (i : Instr) (res : Option Word) (s : State) (q : Queue) :
    (complete i res s).fifo q = s.fifo q := by
  cases q <;> simp [State.fifo]

@[simp] theorem complete_chan (i : Instr) (res : Option Word) (s : State) (ch : Chan) :
    (complete i res s).chan ch = s.chan ch := by
  cases ch <;> simp [State.chan]

/-! ### goOn -/

@[simp] theorem goOn_cfg (i : Instr) (m : Micro) (s : State) : (goOn i m s).cfg = s.cfg := by
  simp [goOn]

@[simp] theorem goOn_txq (i : Instr) (m : Micro) (s : State) : (goOn i m s).txq = s.txq := by
  simp [goOn]

@[simp] theorem goOn_rxq (i : Instr) (m : Micro) (s : State) : (goOn i m s).rxq = s.rxq := by
  simp [goOn]

@[simp] theorem goOn_u0 (i : Instr) (m : Micro) (s : State) : (goOn i m s).u0 = s.u0 := by
  simp [goOn]

@[simp] theorem goOn_u1 (i : Instr) (m : Micro) (s : State) : (goOn i m s).u1 = s.u1 := by
  simp [goOn]

@[simp] theorem goOn_mat (i : Instr) (m : Micro) (s : State) : (goOn i m s).mat = s.mat := by
  simp [goOn]

@[simp] theorem goOn_ckAcc (i : Instr) (m : Micro) (s : State) : (goOn i m s).ckAcc = s.ckAcc := by
  simp [goOn]

@[simp] theorem goOn_built (i : Instr) (m : Micro) (s : State) : (goOn i m s).built = s.built := by
  simp [goOn]

@[simp] theorem goOn_table (i : Instr) (m : Micro) (s : State) : (goOn i m s).table = s.table := by
  simp [goOn]

@[simp] theorem goOn_intctl (i : Instr) (m : Micro) (s : State) : (goOn i m s).intctl = s.intctl := by
  simp [goOn]

@[simp] theorem goOn_err (i : Instr) (m : Micro) (s : State) : (goOn i m s).err = s.err := by
  simp [goOn]

@[simp] theorem goOn_result (i : Instr) (m : Micro) (s : State) : (goOn i m s).result = s.result := by
  simp [goOn]

@[simp] theorem goOn_host (i : Instr) (m : Micro) (s : State) : (goOn i m s).host = s.host := by
  simp [goOn]

@[simp] theorem goOn_sched (i : Instr) (m : Micro) (s : State) : (goOn i m s).sched = s.sched := by
  simp [goOn]

@[simp] theorem goOn_seed (i : Instr) (m : Micro) (s : State) : (goOn i m s).seed = s.seed := by
  simp [goOn]

@[simp] theorem goOn_fifo (i : Instr) (m : Micro) (s : State) (q : Queue) : (goOn i m s).fifo q = s.fifo q := by
  simp [goOn]

@[simp] theorem goOn_chan (i : Instr) (m : Micro) (s : State) (ch : Chan) : (goOn i m s).chan ch = s.chan ch := by
  simp [goOn]

/-! ### writeCtrl -/

@[simp] theorem writeCtrl_cfg (ch : Chan) (c : Ctrl) (s : State) : (writeCtrl ch c s).cfg = s.cfg := by
  simp [writeCtrl]

@[simp] theorem writeCtrl_txq (ch : Chan) (c : Ctrl) (s : State) : (writeCtrl ch c s).txq = s.txq := by
  simp [writeCtrl]

@[simp] theorem writeCtrl_rxq (ch : Chan) (c : Ctrl) (s : State) : (writeCtrl ch c s).rxq = s.rxq := by
  simp [writeCtrl]

@[simp] theorem writeCtrl_mat (ch : Chan) (c : Ctrl) (s : State) : (writeCtrl ch c s).mat = s.mat := by
  simp [writeCtrl]

@[simp] theorem writeCtrl_ckAcc (ch : Chan) (c : Ctrl) (s : State) : (writeCtrl ch c s).ckAcc = s.ckAcc := by
  simp [writeCtrl]

@[simp] theorem writeCtrl_built (ch : Chan) (c : Ctrl) (s : State) : (writeCtrl ch c s).built = s.built := by
  simp [writeCtrl]

@[simp] theorem writeCtrl_table (ch : Chan) (c : Ctrl) (s : State) : (writeCtrl ch c s).table = s.table := by
  simp [writeCtrl]

@[simp] theorem writeCtrl_intctl (ch : Chan) (c : Ctrl) (s : State) : (writeCtrl ch c s).intctl = s.intctl := by
  simp [writeCtrl]

@[simp] theorem writeCtrl_err (ch : Chan) (c : Ctrl) (s : State) : (writeCtrl ch c s).err = s.err := by
  simp [writeCtrl]

@[simp] theorem writeCtrl_result (ch : Chan) (c : Ctrl) (s : State) : (writeCtrl ch c s).result = s.result := by
  simp [writeCtrl]

@[simp] theorem writeCtrl_posMain (ch : Chan) (c : Ctrl) (s : State) : (writeCtrl ch c s).posMain = s.posMain := by
  simp [writeCtrl]

@[simp] theorem writeCtrl_posLp (ch : Chan) (c : Ctrl) (s : State) : (writeCtrl ch c s).posLp = s.posLp := by
  simp [writeCtrl]

@[simp] theorem writeCtrl_posHp (ch : Chan) (c : Ctrl) (s : State) : (writeCtrl ch c s).posHp = s.posHp := by
  simp [writeCtrl]

@[simp] theorem writeCtrl_host (ch : Chan) (c : Ctrl) (s : State) : (writeCtrl ch c s).host = s.host := by
  simp [writeCtrl]

@[simp] theorem writeCtrl_sched (ch : Chan) (c : Ctrl) (s : State) : (writeCtrl ch c s).sched = s.sched := by
  simp [writeCtrl]

@[simp] theorem writeCtrl_seed (ch : Chan) (c : Ctrl) (s : State) : (writeCtrl ch c s).seed = s.seed := by
  simp [writeCtrl]

@[simp] theorem writeCtrl_fifo (ch : Chan) (c : Ctrl) (s : State) (q : Queue) : (writeCtrl ch c s).fifo q = s.fifo q := by
  simp [writeCtrl]

@[simp] theorem writeCtrl_pos (ch : Chan) (c : Ctrl) (s : State) (x : Ctx) : (writeCtrl ch c s).pos x = s.pos x := by
  simp [writeCtrl]

theorem writeCtrl_chan_other {ch c : Chan} (k : Ctrl) (s : State) (h : c ≠ ch) :
    (writeCtrl ch k s).chan c = s.chan c :=
  setChan_chan_other s _ h

@[simp] theorem writeCtrl_rxb (ch : Chan) (c : Ctrl) (s : State) : ((writeCtrl ch c s).chan ch).rxb = (s.chan ch).rxb := by
  simp [writeCtrl]

@[simp] theorem writeCtrl_seq (ch : Chan) (c : Ctrl) (s : State) : ((writeCtrl ch c s).chan ch).seq = (s.chan ch).seq := by
  simp [writeCtrl]

@[simp] theorem writeCtrl_brg (ch : Chan) (c : Ctrl) (s : State) : ((writeCtrl ch c s).chan ch).brg = (s.chan ch).brg := by
  simp [writeCtrl]

/-- A write of CTRL reads back as written, with DE hardwired where it is (R35). -/
@[simp] theorem writeCtrl_ctrl (ch : Chan) (c : Ctrl) (s : State) :
    (writeCtrl ch c s).ctrl ch = { c with de := c.de && s.cfg.hasDir ch } := by
  simp [State.ctrl, writeCtrl]

/-! ### The active context and the position -/

@[simp] theorem active_setFifo (s : State) (q : Queue) (f : Fifo) : active (s.setFifo q f) = active s := by
  simp [active]

@[simp] theorem active_setChan (s : State) (ch : Chan) (u : Channel) : active (s.setChan ch u) = active s := by
  simp [active]

@[simp] theorem active_setPos (s : State) (x : Ctx) (p : Pos) : active (s.setPos x p) = active s := by
  simp [active]

@[simp] theorem active_goOn (i : Instr) (m : Micro) (s : State) : active (goOn i m s) = active s := by
  simp [active]

@[simp] theorem active_writeCtrl (ch : Chan) (c : Ctrl) (s : State) : active (writeCtrl ch c s) = active s := by
  simp [active]

@[simp] theorem goOn_pos_active (i : Instr) (m : Micro) (s : State) : (goOn i m s).pos (active s) = .run i m := by
  simp [goOn]

/-- After `goOn` the command's next step is the one named. -/
@[simp] theorem microOf_goOn (i : Instr) (m : Micro) (s : State) : microOf (goOn i m s) = m := by
  simp [microOf]

@[simp] theorem microOf_setFifo (s : State) (q : Queue) (f : Fifo) : microOf (s.setFifo q f) = microOf s := by
  simp [microOf]

@[simp] theorem microOf_setChan (s : State) (ch : Chan) (u : Channel) : microOf (s.setChan ch u) = microOf s := by
  simp [microOf]

/-- A command nobody has begun is at its first step. -/
theorem microOf_none {s : State} (h : s.pos (active s) = .none) : microOf s = .start := by
  simp [microOf, h]

/-- MAIN with no command in progress begins a command at its first step. -/
theorem microOf_main_none {s : State} (hx : active s = .main) (h : s.posMain = .none) : microOf s = .start :=
  microOf_none (by simp [hx, State.pos, h])

end Sys2Proof.Machine
end

