-- ==== Sys2Proof/Laws/Ops.lean ====
section
/-! SUPPORT. What each shared operation can do, said once: faults, the end of a command, the microsteps of an enqueue, a
reception, and the choice of the step. -/

namespace Sys2Proof.Machine

/-! ### Conditions as propositions -/

theorem present_iff (g : Cfg) (ch : Chan) : g.present ch = true ↔ ch.num < g.numCh := by
  simp [Cfg.present]

theorem isEmpty_iff (f : Fifo) : f.isEmpty = true ↔ f.r = f.w := by
  simp [Fifo.isEmpty]

theorem isFull_iff (g : Cfg) (f : Fifo) : f.isFull g = true ↔ nextIndex g f.w = f.r := by
  simp [Fifo.isFull]

theorem indexOk_iff (s : State) (idx : BitVec 9) : indexOk s idx = true ↔ idx.toNat < s.cfg.maxSlots + 3 := by
  unfold indexOk
  rw [decide_eq_true_iff]
  exact Iff.rfl

theorem wireOk_iff (s : State) (idx : BitVec 9) (wire : BitVec 4) :
    wireOk s idx wire = true ↔ idx.toNat < s.cfg.maxSlots + 3 ∧ wire.toNat < coreCount idx.toNat + 2 := by
  rw [wireOk, Bool.and_eq_true, indexOk_iff, decide_eq_true_iff]

theorem coreCount_of_index (idx : BitVec 9) : coreCount idx.toNat = if idx = 0 then 5 else 4 := by
  have h : idx = 0 ↔ idx.toNat = 0 := by
    constructor
    · rintro rfl
      rfl
    · exact fun h => BitVec.eq_of_toNat_eq h
  unfold coreCount
  simp only [h]

/-- MAIN active and idle, in terms of the fields. -/
theorem active_main_iff (s : State) : active s = .main ↔ s.intctl.inhp = false ∧ s.intctl.inlp = false := by
  unfold active
  cases s.intctl.inhp <;> cases s.intctl.inlp <;> simp

theorem active_lp_iff (s : State) : active s = .lp ↔ s.intctl.inhp = false ∧ s.intctl.inlp = true := by
  unfold active
  cases s.intctl.inhp <;> cases s.intctl.inlp <;> simp

theorem active_hp_iff (s : State) : active s = .hp ↔ s.intctl.inhp = true := by
  unfold active
  cases s.intctl.inhp <;> cases s.intctl.inlp <;> simp

/-- A context inside a command stands at the microstep its position names. -/
theorem microOf_run {s : State} {x : Ctx} {i : Instr} {m : Micro} (ha : active s = x) (hp : s.pos x = .run i m) :
    microOf s = m := by
  simp [microOf, ha, hp]

/-! ### Faults (R451, R471) -/

@[simp] theorem raiseFault_err (k : FaultCode) (s : State) : (raiseFault k s).err = recordFault k s.err := by
  simp [raiseFault]

@[simp] theorem raiseFault_result (k : FaultCode) (s : State) : (raiseFault k s).result = s.result := by
  simp [raiseFault]

@[simp] theorem raiseFault_cfg (k : FaultCode) (s : State) : (raiseFault k s).cfg = s.cfg := by
  simp [raiseFault]

@[simp] theorem raiseFault_mat (k : FaultCode) (s : State) : (raiseFault k s).mat = s.mat := by
  simp [raiseFault]

@[simp] theorem raiseFault_table (k : FaultCode) (s : State) : (raiseFault k s).table = s.table := by
  simp [raiseFault]

@[simp] theorem raiseFault_built (k : FaultCode) (s : State) : (raiseFault k s).built = s.built := by
  simp [raiseFault]

@[simp] theorem raiseFault_fifo (k : FaultCode) (s : State) (q : Queue) : (raiseFault k s).fifo q = s.fifo q := by
  cases q <;> simp [raiseFault, State.fifo]

@[simp] theorem raiseFault_chan (k : FaultCode) (s : State) (ch : Chan) : (raiseFault k s).chan ch = s.chan ch := by
  cases ch <;> simp [raiseFault, State.chan]

/-- A fault in MAIN writes ERR and POS[MAIN] only (R451). -/
theorem raiseFault_main {s : State} (k : FaultCode) (h : active s = .main) :
    raiseFault k s = { s with err := recordFault k s.err, posMain := .none } := by
  simp [raiseFault, h, leave]

/-! ### The end of a command (R159, R462, R470) -/

/-- In MAIN the end of a command writes RESULT, if there is a result, and POS[MAIN]. -/
theorem complete_main {s : State} (i : Instr) (res : Option Word) (h : active s = .main) :
    complete i res s = { s with posMain := .none, result := res.getD s.result } := by
  simp [complete, h]

/-- In the LP handler it writes POS[LP] when the handler goes on. -/
theorem complete_lp_goes_on {s : State} {i j : Instr} {res : Option Word} (h : active s = .lp)
    (hd : drainNext s.cfg.txCh i res = some j) : complete i res s = { s with posLp := .run j .start } := by
  simp [complete, h, hd]

/-- In the LP handler it is the return when the handler does not go on. -/
theorem complete_lp_returns {s : State} {i : Instr} {res : Option Word} (h : active s = .lp)
    (hd : drainNext s.cfg.txCh i res = none) : complete i res s = leave .lp s := by
  simp [complete, h, hd]

/-- In the HP handler it returns. -/
theorem complete_hp {s : State} (i : Instr) (res : Option Word) (h : active s = .hp) : complete i res s = leave .hp s := by
  simp [complete, h]

/-- Outside MAIN the end of a command leaves RESULT alone (R471). -/
theorem complete_result_handler {s : State} (i : Instr) (res : Option Word) (h : active s ≠ .main) :
    (complete i res s).result = s.result := by
  unfold complete
  split
  · next hm => exact absurd hm h
  · split <;> simp
  · simp

/-! ### The microsteps of an enqueue (R202) -/

/-- What one microstep of FQ.ENQ can do. -/
theorem enqStep_cases {q : Queue} {v : Word} {a : EnqAt} {s t : State} {n : EnqNext} (h : enqStep q v a s = some (t, n)) :
    (a = .s1 ∧ t = s ∧
      ((nextIndex s.cfg (s.fifo q).w = (s.fifo q).r ∧ n = .over) ∨
        (nextIndex s.cfg (s.fifo q).w ≠ (s.fifo q).r ∧ n = .more (.s2 (s.fifo q).w v)))) ∨
    (∃ ww x, a = .s2 ww x ∧ ww < s.cfg.capacity ∧
      t = s.setFifo q { s.fifo q with slot := (s.fifo q).slot.write ww x } ∧ n = .more (.s3 ww)) ∨
    (∃ ww, a = .s3 ww ∧ t = s.setFifo q { s.fifo q with w := nextIndex s.cfg ww } ∧ n = .over) := by
  cases a with
  | s1 =>
    simp only [enqStep] at h
    split at h <;> simp only [Option.some.injEq, Prod.mk.injEq] at h <;> obtain ⟨rfl, rfl⟩ := h <;> simp_all
  | s2 ww x =>
    simp only [enqStep] at h
    split at h <;> simp_all
  | s3 ww => simp_all [enqStep]

/-! ### A reception (R249) -/

/-- With no data, U.RXW's body answers NO_DATA and changes nothing. -/
theorem receiveWord_noData {ch : Chan} {s : State} (h : rxAvailable ch s = false) :
    receiveWord ch s = (noData s.cfg, s) := by
  simp [receiveWord, h]

/-- With data, it answers the head entry's symbol as the mode has it, its framing flag and the stored overrun flag, pops the head, and toggles the receiver on an overrun. -/
theorem receiveWord_data {ch : Chan} {s : State} {e : RxEntry} {es : List RxEntry} (h : rxAvailable ch s = true)
    (he : (s.chan ch).rxb = e :: es) :
    receiveWord ch s = (rxWord s.cfg e.ferr (s.chan ch).oerr (symbolInMode (s.ctrl ch) e.sym),
      popRx ch (if (s.chan ch).oerr then toggleReceiver ch s else s)) := by
  simp [receiveWord, h, he]

/-- In 9-bit mode a symbol is itself. -/
theorem symbolInMode_nine {c : Ctrl} (h : c.nine = true) (y : Symbol) : symbolInMode c y = y := by
  simp [symbolInMode, h]

/-- In 8-bit mode it has no bit 8 (R140, R266). -/
theorem symbolInMode_eight {c : Ctrl} (h : c.nine = false) (y : Symbol) : symbolInMode c y = y &&& 0x0FF := by
  simp [symbolInMode, h]

/-- T_WAIT_SHIFT is over exactly when nothing is left to send and the transmitter is on (R243, R510). -/
theorem shiftWaitOver_iff (ch : Chan) (s : State) :
    shiftWaitOver ch s = true ↔ (s.chan ch).thr.full = false ∧ (s.chan ch).tsr.full = false ∧
      (s.chan ch).ctrl.en = true ∧ (s.chan ch).ctrl.txen = true := by
  simp [shiftWaitOver, Channel.tsre, State.ctrl, and_assoc]

@[simp] theorem toggleReceiver_rxb (ch : Chan) (s : State) : ((toggleReceiver ch s).chan ch).rxb = (s.chan ch).rxb := by
  simp [toggleReceiver]

/-- Every step of MAIN and of a handler is one of: an interrupt entry, a handler's return, a step of `exec`, a decode fault, or
nothing (R459, R460). -/
theorem processorStep_cases (s : State) :
    (hpEntry s = true ∧ processorStep s = .next (enterHp s)) ∨
    (hpEntry s = false ∧ lpEntry s = true ∧ processorStep s = .next (enterLp s)) ∨
    (hpEntry s = false ∧ lpEntry s = false ∧ processorStep s = contextStep s) := by
  unfold processorStep
  cases hpEntry s <;> cases lpEntry s <;> simp

/-- What the active context's step can be. -/
theorem contextStep_cases (s : State) :
    (∃ i m, s.pos (active s) = .run i m ∧ contextStep s = exec i s) ∨
    ((∀ i m, s.pos (active s) ≠ .run i m) ∧ active s = .main ∧ contextStep s = nextCommand s) ∨
    ((∀ i m, s.pos (active s) ≠ .run i m) ∧ active s ≠ .main ∧ contextStep s = .next (leave (active s) s)) := by
  unfold contextStep
  cases hp : s.pos (active s) with
  | run i m => exact .inl ⟨i, m, rfl, rfl⟩
  | none => by_cases h : active s = .main <;> simp [h]
  | hpStart => by_cases h : active s = .main <;> simp [h]

/-- A step takes the next choice and lets its agent step, when the configuration is legal (R9, R115). -/
theorem step_next {s t : State} (h : step s = .next t) :
    s.cfg.ok = true ∧ agentStep (takeChoice s).1 (takeChoice s).2 = .next t := by
  unfold step at h
  split at h
  · next hc => exact ⟨hc, h⟩
  · simp at h

/-- With a choice fixed beforehand, that is the one taken. -/
theorem takeChoice_cons {s : State} {c : Choice} {cs : List Choice} (h : s.sched = c :: cs) :
    takeChoice s = (c, { s with sched := cs }) := by
  simp [takeChoice, h]

/-- A step with one choice fixed is the step of the agent that choice names. -/
theorem step_chosen {s t : State} {c : Choice} (h : step { s with sched := [c] } = .next t) :
    s.cfg.ok = true ∧ agentStep c { s with sched := [] } = .next t := by
  have hs := step_next h
  rwa [takeChoice_cons (s := { s with sched := [c] }) rfl] at hs

/-- Taking a choice touches the model's own inputs only. -/
theorem takeChoice_state (s : State) :
    ∃ cs n, (takeChoice s).2 = { s with sched := cs, seed := n } := by
  unfold takeChoice
  split
  · next c cs h => exact ⟨cs, s.seed, rfl⟩
  · next h => exact ⟨s.sched, s.seed + 1, rfl⟩

end Sys2Proof.Machine
end

