-- ==== Sys2Proof/Laws/PerInstr.lean ====
section
/-! SUPPORT. Families of statements about every command, one lemma per constructor of `Instr`. -/

namespace Sys2Proof.Laws

/-- The opcode of a command's word is listed in the map of R151, with the must-be-zero mask that its row of
spec/opcode_table.json gives (R150, R154). -/
def OpcodeListed.Statement (i : Instr) : Prop :=
  fieldOp (encode i) = opcodeByte i ∧ (mbzMask (fieldOp (encode i))).isSome = true

theorem OpcodeListed.fqInit (q : Queue) : OpcodeListed.Statement (.fqInit q) := ⟨by simp [encode], by simp [encode]; rfl⟩
theorem OpcodeListed.fqEnq (q : Queue) (word : Word) : OpcodeListed.Statement (.fqEnq q word) :=
  ⟨by simp [encode], by simp [encode]; rfl⟩
theorem OpcodeListed.fqDeq (q : Queue) : OpcodeListed.Statement (.fqDeq q) := ⟨by simp [encode], by simp [encode]; rfl⟩
theorem OpcodeListed.fqEmpty (q : Queue) : OpcodeListed.Statement (.fqEmpty q) := ⟨by simp [encode], by simp [encode]; rfl⟩
theorem OpcodeListed.fqFull (q : Queue) : OpcodeListed.Statement (.fqFull q) := ⟨by simp [encode], by simp [encode]; rfl⟩
theorem OpcodeListed.uInit (ch : Chan) (nine intmode : Bool) (baud : Word) :
    OpcodeListed.Statement (.uInit ch nine intmode baud) := ⟨by simp [encode], by simp [encode]; rfl⟩
theorem OpcodeListed.uTxw (ch : Chan) (word : Word) : OpcodeListed.Statement (.uTxw ch word) :=
  ⟨by simp [encode], by simp [encode]; rfl⟩
theorem OpcodeListed.uRxav (ch : Chan) : OpcodeListed.Statement (.uRxav ch) := ⟨by simp [encode], by simp [encode]; rfl⟩
theorem OpcodeListed.uRxw (ch : Chan) : OpcodeListed.Statement (.uRxw ch) := ⟨by simp [encode], by simp [encode]; rfl⟩
theorem OpcodeListed.uTxrdy (ch : Chan) : OpcodeListed.Statement (.uTxrdy ch) := ⟨by simp [encode], by simp [encode]; rfl⟩
theorem OpcodeListed.dmFeed (word : Word) : OpcodeListed.Statement (.dmFeed word) := ⟨by simp [encode], by simp [encode]; rfl⟩
theorem OpcodeListed.fbBuild : OpcodeListed.Statement .fbBuild := ⟨by simp [encode], by simp [encode]; rfl⟩
theorem OpcodeListed.fbRdw (idx : BitVec 9) (wire : BitVec 4) : OpcodeListed.Statement (.fbRdw idx wire) :=
  ⟨by simp [encode], by simp [encode]; rfl⟩
theorem OpcodeListed.fbLen (idx : BitVec 9) : OpcodeListed.Statement (.fbLen idx) := ⟨by simp [encode], by simp [encode]; rfl⟩
theorem OpcodeListed.fbCk (idx : BitVec 9) : OpcodeListed.Statement (.fbCk idx) := ⟨by simp [encode], by simp [encode]; rfl⟩
theorem OpcodeListed.fbEnq (idx : BitVec 9) : OpcodeListed.Statement (.fbEnq idx) := ⟨by simp [encode], by simp [encode]; rfl⟩
theorem OpcodeListed.ckInit : OpcodeListed.Statement .ckInit := ⟨by simp [encode], by simp [encode]; rfl⟩
theorem OpcodeListed.ckUpd (word : Word) : OpcodeListed.Statement (.ckUpd word) := ⟨by simp [encode], by simp [encode]; rfl⟩
theorem OpcodeListed.ckRd : OpcodeListed.Statement .ckRd := ⟨by simp [encode], by simp [encode]; rfl⟩
theorem OpcodeListed.dspPoll : OpcodeListed.Statement .dspPoll := ⟨by simp [encode], by simp [encode]; rfl⟩
theorem OpcodeListed.regRd (addr : Byte) : OpcodeListed.Statement (.regRd addr) := ⟨by simp [encode], by simp [encode]; rfl⟩
theorem OpcodeListed.regWr (addr : Byte) (value : Word) : OpcodeListed.Statement (.regWr addr value) :=
  ⟨by simp [encode], by simp [encode]; rfl⟩

end Sys2Proof.Laws
end

