-- ==== Sys2Proof/Tests/Slice0.lean ====
section
/-! SUPPORT. The author's own tests: the encodings, the checks of well-formedness, one step of each command, and a state that meets
the hypotheses of each statement for the provers. Expected values are those of spec/95_test_vectors.md and of the examples in the
command rules. -/

namespace Sys2Proof.Tests

open Sys2Proof.Machine Sys2Proof.Safety

/-! ### Helpers -/

/-- The next state of an outcome. -/
def nextOf : Out → Option State
  | .next s => some s
  | .fault _ => none
  | .refused _ => none

/-- One step of a command. -/
def after (i : Instr) (s : State) : Option State := nextOf (exec i s)

/-- RESULT after one step of a command. -/
def resultOf (i : Instr) (s : State) : Option Word := (after i s).map State.result

/-- ERR after one step of a command. -/
def errOf (i : Instr) (s : State) : Option Word := (after i s).map fun t => t.err.toWord

/-- The fault of a word that does not decode. -/
def faultOf (c : Command) : Option FaultCode :=
  match decode c with
  | .ok _ => none
  | .error k => some k

/-- The block after reset. -/
def r0 : State := State.reset

/-- The block after reset with one channel. -/
def oneChannel : State := .resetWith { Cfg.ref with numCh := 1 }

/-- The reset state with these RXQ and TXQ. -/
def withQueues (rxq txq : Fifo) : State := { r0 with rxq := rxq, txq := txq }

/-- CTRL of a channel after U.INIT with NINE: 0x000F. -/
def ctrlF : Ctrl := ⟨true, true, true, true, false, false, false, false, false, false⟩

/-- Channel 0 after U.INIT 0, 19200, NINE, holding these entries. -/
def u0Holding (rxb : List RxEntry) (oerr : Bool) : State :=
  { r0 with u0 := { Channel.reset with ctrl := ctrlF, brg := 51, rxb := rxb, oerr := oerr } }

/-- MAIN inside U.TXW 0, 0x01FF in a phase, DE as it is from T_SETTLE1 on. -/
def inPhase (p : Phase) (thr tsr : Bool) : State :=
  { r0 with
    u0 :=
      { Channel.reset with
        ctrl := { ctrlF with de := decide (p ≠ .deOn) }
        thr := ⟨thr, 0xFF⟩
        tsr := ⟨tsr, 0x1FF, true⟩
        seq := ⟨p, 0x01FF, .main⟩ }
    posMain := .run (.uTxw .ch0 0x01FF) .inSeq
    sched := [.proc] }

/-- MAIN between s2 and s3 of FQ.ENQ RXQ, 0x0172. -/
def midEnq : State :=
  { r0 with
    rxq := ⟨[(0, 0x0172)], 0, 0⟩
    posMain := .run (.fqEnq .rxq 0x0172) (.enq (.s3 0))
    sched := [.proc] }

/-- The low-priority handler active at a position, with this TXQ. -/
def lpAt (p : Pos) (txq : Fifo) : State :=
  { r0 with intctl := { r0.intctl with inlp := true }, posLp := p, txq := txq, sched := [.proc] }

/-- MAIN idle, the processor next, and one command issued. -/
def issued (c : Command) : State := { r0 with sched := [.proc], host := [c] }

/-- A frame-table entry from its core words and checksum. -/
def entry (core : List Word) (ck : Word) : FrameEntry := ⟨BitVec.ofNat 4 core.length, core ++ List.replicate (14 - core.length) 0, ck⟩

/-- The block with the frame table of 95_test_vectors.md 2.6. -/
def built : State :=
  { r0 with
    table :=
      [entry [0x1FF, 5, 1, 0, 0] 0xD1B7, entry [0x1FF, 4, 2, 3] 0x0499, entry [0x1FF, 4, 3, 0] 0x03CA,
        entry [0x1FF, 4, 3, 1] 0x13EB, entry [0x1FF, 4, 3, 2] 0x2388, entry [0x1FF, 4, 3, 3] 0x33A9,
        entry [0x1FF, 4, 3, 4] 0x434E]
    built := true }

theorem mainIdle_of {s : State} (h : (active s == .main && s.posMain == .none) = true) : MainIdle s := by
  simpa [MainIdle] using h

/-! ### Decoding: words written out from the formats of R150 and the map of R151 -/

/-- OP 0x10, SEL 1. -/
theorem test_decode_fqInit : decodeTableWord 32 0x10100000 = some (.fqInit .rxq) := by decide
/-- OP 00010001, SEL 0001, FLG 0000, IMM 0001001000110100. -/
theorem test_decode_fqEnq : decodeTableWord 32 0b00010001000100000001001000110100 = some (.fqEnq .rxq 0x1234) := by decide
theorem test_decode_fqDeq : decodeTableWord 32 0x12100000 = some (.fqDeq .rxq) := by decide
theorem test_decode_fqEmpty : decodeTableWord 32 0x13000000 = some (.fqEmpty .txq) := by decide
theorem test_decode_fqFull : decodeTableWord 32 0x14000000 = some (.fqFull .txq) := by decide
/-- OP 00100000, SEL 0000, FLG 0001 (NINE), IMM 19200. -/
theorem test_decode_uInit : decodeTableWord 32 0b00100000000000010100101100000000 = some (.uInit .ch0 true false 19200) := by decide
theorem test_decode_uInit_int : decodeTableWord 32 0x20124B00 = some (.uInit .ch1 false true 19200) := by decide
theorem test_decode_uTxw : decodeTableWord 32 0x21100100 = some (.uTxw .ch1 0x0100) := by decide
theorem test_decode_uRxav : decodeTableWord 32 0x22100000 = some (.uRxav .ch1) := by decide
theorem test_decode_uRxw : decodeTableWord 32 0x23000000 = some (.uRxw .ch0) := by decide
theorem test_decode_uTxrdy : decodeTableWord 32 0x24000000 = some (.uTxrdy .ch0) := by decide
/-- OP 00110000, SEL and FLG 0, IMM 0000000001110010. -/
theorem test_decode_dmFeed : decodeTableWord 32 0b00110000000000000000000001110010 = some (.dmFeed 0x0072) := by decide
theorem test_decode_fbBuild : decodeTableWord 32 0x40000000 = some .fbBuild := by decide
/-- OP 01000001, SEL 0101 (wire position 5), FLG 0, IMM[8:0] = 1. -/
theorem test_decode_fbRdw : decodeTableWord 32 0b01000001010100000000000000000001 = some (.fbRdw 1 5) := by decide
theorem test_decode_fbLen : decodeTableWord 32 0x420001FF = some (.fbLen 511) := by decide
theorem test_decode_fbCk : decodeTableWord 32 0x43000001 = some (.fbCk 1) := by decide
theorem test_decode_fbEnq : decodeTableWord 32 0x44000002 = some (.fbEnq 2) := by decide
theorem test_decode_ckInit : decodeTableWord 32 0x50000000 = some .ckInit := by decide
/-- OP 01010001, SEL and FLG 0, IMM 0000000111111111. -/
theorem test_decode_ckUpd : decodeTableWord 32 0b01010001000000000000000111111111 = some (.ckUpd 0x01FF) := by decide
theorem test_decode_ckRd : decodeTableWord 32 0x52000000 = some .ckRd := by decide
theorem test_decode_dspPoll : decodeTableWord 32 0x60000000 = some .dspPoll := by decide
theorem test_decode_regRd : decodeTableWord 32 0x701F0000 = some (.regRd 0x1F) := by decide
/-- OP 01110001, ADDR 00010001, IMM 0000000111111111. -/
theorem test_decode_regWr : decodeTableWord 32 0b01110001000100010000000111111111 = some (.regWr 0x11 0x01FF) := by decide

/-- The words of 95_test_vectors.md 2.1 that are ILLEGAL_CMD. -/
theorem test_decode_illegal :
    ([0x00000000, 0xFF000000, 0x15000000] : List Command).map faultOf = List.replicate 3 (some .illegalCmd) := by decide
/-- The words of 95_test_vectors.md 2.1 that are BAD_FIELD. -/
theorem test_decode_badField :
    ([0x10010000, 0x10200000, 0x20044B00, 0x21010000, 0x22200000, 0x30100000, 0x40000001, 0x42000200, 0x42100000,
      0x70010001] : List Command).map faultOf = List.replicate 10 (some .badField) := by decide
theorem test_encode_uInit : encode (.uInit .ch0 true true 19200) = 0x20034B00 := by decide
theorem test_encode_fbRdw : encode (.fbRdw 6 15) = 0x41F00006 := by decide

/-! ### The assembler (R155, R156) -/

theorem test_assemble_uInit : assemble "U.INIT 0, 19200, NINE ; boot" = some [0x20014B00] := by decide
theorem test_assemble_outEnable : assemble "OUT.ENABLE" = some [0x711101FF] := by decide
theorem test_assemble_ckCalc : assemble "CK.CALC 0x1FF, 5" = some [0x50000000, 0x510001FF, 0x51000005, 0x52000000] := by
  decide

/-- R155: operands are separated by commas, by nothing else, and none is empty. -/
theorem test_assemble_commas :
    ["FQ.ENQ RXQ 5", "FQ.ENQ RXQ,, 5", "FQ.ENQ RXQ, 5,", "FQ.ENQ, RXQ, 5"].map assemble = List.replicate 4 none := by decide

/-! ### Well-formedness: each check refuses an ill-formed term (R9, R153) -/

theorem test_wf_absent_channel : Instr.wf oneChannel.cfg (.uTxw .ch1 0) = false := by decide
theorem test_wf_present_channel : Instr.wf oneChannel.cfg (.uTxw .ch0 0) = true := by decide
theorem test_cfg_ref_ok : Cfg.ref.ok = true := by decide
theorem test_cfg_wordW : Cfg.ok { Cfg.ref with wordW := 32 } = false := by decide
theorem test_cfg_capacity : Cfg.ok { Cfg.ref with capacity := 1 } = false := by decide
theorem test_cfg_numCh : Cfg.ok { Cfg.ref with numCh := 3 } = false := by decide
theorem test_cfg_rxbufDepth : Cfg.ok { Cfg.ref with rxbufDepth := 0 } = false := by decide
theorem test_cfg_maxSlots_low : Cfg.ok { Cfg.ref with maxSlots := 0 } = false := by decide
theorem test_cfg_maxSlots_high : Cfg.ok { Cfg.ref with maxSlots := 256 } = false := by decide
theorem test_cfg_fault_bit_range : Cfg.ok { Cfg.ref with ferrBit := 11 } = false := by decide
theorem test_cfg_fault_bits_distinct : Cfg.ok { Cfg.ref with oerrBit := 12 } = false := by decide
theorem test_cfg_crcInBits_low : Cfg.ok { Cfg.ref with crcInBits := 0 } = false := by decide
theorem test_cfg_crcInBits_high : Cfg.ok { Cfg.ref with crcInBits := 17 } = false := by decide
theorem test_cfg_opcode_word : Cfg.ok { Cfg.ref with opcPoll := 0x200 } = false := by decide
theorem test_cfg_parameter_word : Cfg.ok { Cfg.ref with discP1 := 0x200 } = false := by decide
theorem test_cfg_length_word : Cfg.ok { Cfg.ref with lenPoll := 0x200 } = false := by decide
theorem test_cfg_txCh : Cfg.ok { Cfg.ref with numCh := 1, txCh := .ch1 } = false := by decide
theorem test_cfg_rxCh : Cfg.ok { Cfg.ref with numCh := 1, rxCh := .ch1 } = false := by decide
theorem test_step_refuses_bad_cfg : step (.resetWith { Cfg.ref with capacity := 1 }) = .refused .badConfig := rfl

/-! ### One step of each command -/

/-- F11. -/
theorem test_fqInit : (after (.fqInit .rxq) (withQueues ⟨[(3, 5)], 3, 7⟩ .reset)).map State.rxq = some ⟨[(3, 5)], 0, 0⟩ := by
  decide
/-- F6, its s2: the slot is written before the index moves. -/
theorem test_fqEnq_s2 :
    (after (.fqEnq .rxq 0x0011)
      { withQueues ⟨[], 15, 15⟩ .reset with posMain := .run (.fqEnq .rxq 0x0011) (.enq (.s2 15 0x0011)) }).map State.rxq =
      some ⟨[(15, 0x0011)], 15, 15⟩ := by decide
/-- F9: the full queue drops the word in one step. -/
theorem test_fqEnq_full : after (.fqEnq .rxq 0x0099) (withQueues ⟨[], 0, 15⟩ .reset) = some (withQueues ⟨[], 0, 15⟩ .reset) := by
  decide
/-- F3. -/
theorem test_fqDeq_empty : errOf (.fqDeq .rxq) r0 = some 0x0104 := by decide
/-- F7, its s3: the read index wraps. -/
theorem test_fqDeq_s3 :
    (after (.fqDeq .rxq)
      { withQueues ⟨[(15, 0x0011)], 15, 0⟩ .reset with posMain := .run (.fqDeq .rxq) (.deqS3 15 0x0011) }).map
      (fun t => (t.rxq.r, t.result)) = some (0, 0x0011) := by decide
/-- F1, its s2. -/
theorem test_fqEmpty : resultOf (.fqEmpty .rxq) { r0 with posMain := .run (.fqEmpty .rxq) (.queryS2 0) } = some 0x0001 := by
  decide
/-- F10, its s2. -/
theorem test_fqFull :
    resultOf (.fqFull .rxq) { withQueues ⟨[], 5, 4⟩ .reset with posMain := .run (.fqFull .rxq) (.queryS2 5) } = some 0x0001 := by
  decide
/-- The first row of the U.INIT vectors with NINE and INT. -/
theorem test_uInit :
    (after (.uInit .ch0 true true 19200) r0).map (fun t => (t.u0.brg, (t.ctrl .ch0).toWord, t.u0.trace)) =
      some (51, 0x003F, [.rxen true]) := by decide
/-- U.INIT 0, 1: the divisor 999999 does not fit. -/
theorem test_uInit_badBaud : errOf (.uInit .ch0 false false 1) r0 = some 0x0105 := by decide
/-- T1, its T_DE_ON. -/
theorem test_uTxw_deOn :
    (after (.uTxw .ch0 0x01FF) (inPhase .deOn false false)).map (fun t => (t.u0.trace, t.u0.seq.phase)) =
      some ([.de true], .settle1) := by decide
/-- SEQ_BUSY on a channel in a transaction. -/
theorem test_uTxw_busy : errOf (.uTxw .ch0 0) { inPhase .settle1 false false with posMain := .none } = some 0x0108 := by decide
/-- R510: with the transmitter disabled in the wait, the wait goes on. -/
theorem test_uTxw_waits_for_txen :
    (let s : State := { inPhase .waitShift false false with
        u0 := { (inPhase .waitShift false false).u0 with ctrl := { ctrlF with txen := false } } }
     after (.uTxw .ch0 0x01FF) s = some s) := by decide
/-- X3. -/
theorem test_uRxav : resultOf (.uRxav .ch0) (u0Holding [⟨0x0A5, false⟩] false) = some 0x0001 := by decide
/-- X7. -/
theorem test_uRxw_overrun :
    (after (.uRxw .ch0) (u0Holding [⟨0x1A5, false⟩, ⟨0x03C, true⟩] true)).map
      (fun t => (t.result, t.u0.trace, t.u0.oerr, t.u0.rxb)) =
      some (0x21A5, [.rxen false, .rxen true], false, [⟨0x03C, true⟩]) := by decide
/-- R249: bit 8 of the result is 0 when NINE is 0, also of a symbol held from 9-bit mode. -/
theorem test_uRxw_eight :
    resultOf (.uRxw .ch0) { r0 with u0 := { Channel.reset with ctrl := { ctrlF with nine := false }, rxb := [⟨0x1A5, false⟩] } } =
      some 0x00A5 := by decide
/-- X2. -/
theorem test_uRxw_noData : resultOf (.uRxw .ch0) (u0Holding [] false) = some 0x4000 := by decide
/-- X15 and X16. -/
theorem test_uTxrdy : [resultOf (.uTxrdy .ch0) r0, resultOf (.uTxrdy .ch0) (u0Holding [] false)] = [some 0, some 1] := by decide
/-- M3. -/
theorem test_dmFeed_trigger :
    (after (.dmFeed 0x0100) { r0 with mat := ⟨0x017, 0x072, 0, 0, 0x001, 0⟩ }).map (fun t => (t.mat.hist0, t.mat.out)) =
      some (0x100, 0x110) := by decide
/-- M5: the taps read the raw word. -/
theorem test_dmFeed_taps : (after (.dmFeed 0x0272) r0).map (fun t => (t.mat.hist0, t.mat.out)) = some (0x072, 0x027) := by decide
set_option maxRecDepth 20000 in
/-- The REF table of 2.6 with MAX_SLOTS = 4: FB.BUILD makes exactly it. -/
theorem test_fbBuild : after .fbBuild r0 = some built := by decide
/-- B4 and B5. -/
theorem test_fbRdw : (resultOf (.fbRdw 0 6) built, errOf (.fbRdw 0 7) built) = (some 0x00B7, some 0x0107) := by decide
/-- R9: the preamble is the configuration's. -/
theorem test_preamble : (coreWords { Cfg.ref with preamble := 0x0100 } 2).head? = some 0x0100 := by decide
/-- B8 and B10. -/
theorem test_fbLen : (resultOf (.fbLen 6) built, errOf (.fbLen 7) built) = (some 0x0004, some 0x0107) := by decide
/-- B9, and B1's fault. -/
theorem test_fbCk : (resultOf (.fbCk 6) built, errOf (.fbCk 6) r0) = (some 0x434E, some 0x0106) := by decide
/-- B11's last step: wire word 5, its s3. -/
theorem test_fbEnq_last :
    (after (.fbEnq 2)
      { built with txq := ⟨[(5, 0x0CA)], 0, 5⟩, posMain := .run (.fbEnq 2) (.fbEnq 5 (.s3 5)) }).map
      (fun t => (t.txq.w, t.posMain)) = some (6, .none) := by decide
/-- R206: the roles are the configuration's: LP may not dequeue where CONS[TXQ] is MAIN. -/
theorem test_fqDeq_role :
    errOf (.fqDeq .txq)
      { State.resetWith { Cfg.ref with consTxq := .main } with intctl := { r0.intctl with inlp := true }, posLp := .run (.fqDeq .txq) .start } =
      some 0x010B := by decide
/-- B13. -/
theorem test_fbEnq_lp : errOf (.fbEnq 0) { built with intctl := { r0.intctl with inlp := true } } = some 0x010B := by decide
theorem test_ckInit : (after .ckInit { r0 with ckAcc := 0x1234 }).map State.ckAcc = some 0xFFFF := by decide
/-- K4. -/
theorem test_ckUpd : (after (.ckUpd 0x01FF) r0).map State.ckAcc = some 0x30CE := by decide
/-- R333: with CRC_IN_BITS = 9 the bits above bit 8 do not enter. -/
theorem test_ckUpd_in_bits :
    (after (.ckUpd 0xFE05) (.resetWith { Cfg.ref with crcInBits := 9 })).map State.ckAcc =
      (after (.ckUpd 0x0005) (.resetWith { Cfg.ref with crcInBits := 9 })).map State.ckAcc := by decide
theorem test_ckRd : resultOf .ckRd { r0 with ckAcc := 0x30CE } = some 0x30CE := by decide
/-- R331: end for end, then the exclusive or. -/
theorem test_ckRd_reflects :
    resultOf .ckRd { State.resetWith { Cfg.ref with crcRefout := true, crcXorout := 0xFFFF } with ckAcc := 0x8001 } =
      some 0x7FFE := by decide
/-- D13, its s2: the word is dropped, not fed. -/
theorem test_dspPoll_faulty :
    (after .dspPoll { u0Holding [⟨0x0A5, true⟩] false with posMain := .run .dspPoll .pollS2 }).map
      (fun t => (t.result, t.mat.hist0, t.posMain)) = some (0x10A5, 0, .none) := by decide
/-- D15, its s3. -/
theorem test_dspPoll_feeds :
    (after .dspPoll { u0Holding [] false with posMain := .run .dspPoll (.pollS3 0x01A5) }).map
      (fun t => (t.result, t.mat.hist0, t.mat.out)) = some (0x01A5, 0x1A5, 0x01A) := by decide
/-- D1 and D3. -/
theorem test_regRd : (resultOf (.regRd 0x01) r0, errOf (.regRd 0x03) r0) = (some 0x0006, some 0x0109) := by decide
/-- D8: a register of the absent channel. -/
theorem test_regRd_absent : errOf (.regRd 0x08) oneChannel = some 0x0109 := by decide
/-- D6 and D7. -/
theorem test_regWr_ctrl :
    ((after (.regWr 0x00 0xFFFF) r0).map fun t => ((t.ctrl .ch0).toWord, t.u0.trace),
      (after (.regWr 0x08 0xFFFF) r0).map fun t => ((t.ctrl .ch1).toWord, t.u1.trace)) =
      (some (0x03FF, [.rxen true, .de true]), some (0x02FF, [.rxen true])) := by decide
/-- D4 and D10. -/
theorem test_regWr_readOnly :
    (errOf (.regWr 0x01 0) r0, (after (.regWr 0x12 0xFFF0) r0).map fun t => t.intctl.toWord) = (some 0x010A, some 0) := by decide

/-! ### Hardware steps, interrupts, the interface -/

/-- R252: the 9th bit goes with the byte. -/
theorem test_lineLoad : (lineLoad .ch0 { inPhase .waitShift true false with
    u0 := { (inPhase .waitShift true false).u0 with ctrl := { ctrlF with tx9 := true } } }).u0.tsr = ⟨true, 0x1FF, true⟩ := by
  decide
/-- T9: with the driver off the symbol is lost. -/
theorem test_lineShift_lost : (lineShift .ch0 { inPhase .waitShift false true with
    u0 := { (inPhase .waitShift false true).u0 with ctrl := ctrlF } }).u0.trace = [.lost 9 0x1FF] := by decide
/-- X7: the third symbol overruns. -/
theorem test_lineArrive_overrun :
    (lineArrive .ch0 0x0FF false (u0Holding [⟨0x1A5, false⟩, ⟨0x03C, true⟩] false)).u0.oerr = true := by decide
/-- X11: bit 8 is stored as 0 in 8-bit mode. -/
theorem test_lineArrive_eight :
    (lineArrive .ch0 0x1A5 false { r0 with u0 := { Channel.reset with ctrl := { ctrlF with nine := false } } }).u0.rxb =
      [⟨0x0A5, false⟩] := by decide
/-- E4. -/
theorem test_lpEntry :
    (nextOf (step { r0 with intctl := ⟨true, true, true, true, true, false, false⟩, sched := [.proc] })).map
      (fun t => (t.intctl.toWord, t.posLp)) = some (0x002F, .run (.fqEmpty .txq) .start) := by decide
/-- E9: the handler's U.TXW finds the sequencer busy, and the handler ends. -/
theorem test_lp_busy :
    (after (.uTxw .ch0 5) { inPhase .waitShift false true with
      intctl := { r0.intctl with inlp := true }, posLp := .run (.uTxw .ch0 5) .start }).map
      (fun t => (t.err.toWord, t.posLp, t.intctl.inlp)) = some (0x0108, .none, false) := by decide
/-- The interface: the first step after reset begins the placed command (CK.UPD 0x01FF). -/
theorem test_withFetchWord : (nextOf (step (r0.withFetchWord 32 0x510001FF))).map State.ckAcc = some 0x30CE := by decide
/-- E1, through the interface. -/
theorem test_withFetchWord_illegal : (nextOf (step (r0.withFetchWord 32 0))).map (fun t => t.err.toWord) = some 0x0101 := by
  decide

/-! ### Witnesses: a state and operands that meet the hypotheses of each statement of Obligations.lean -/

/-- MainIdle alone: FqInitEmptiesTheQueue, FqEmptyAndFqFullAnswerTheirPredicate, DmFeedUpdatesHistoryTriggerAndTaps,
TriggerMeansTheSignature, ChecksumCommandsTakeEffect, CkCalcAnswersTheFrameChecksum, FbBuildMakesTheTable,
RegWrOtherRegisters (its first clause with a present channel). -/
theorem test_witness_mainIdle : MainIdle r0 ∧ r0.cfg.present .ch0 = true ∧ r0.cfg.present .ch1 = true :=
  ⟨mainIdle_of (by decide), by decide, by decide⟩

theorem test_witness_DecodeAndEncodeAgree : decode 0x11101234 = .ok (.fqEnq .rxq 0x1234) := rfl

/-- Both clauses, on the row of FQ.INIT. -/
theorem test_witness_RowsDecodeByMatchAndMask :
    ((0x10100000 : Command) &&& 0xFFEFFFFF = 0x10000000) ∧ ((0x10010000 : Command) &&& 0xFFEFFFFF ≠ 0x10000000) := by decide

theorem test_witness_StepRunsTheDecodedCommand :
    (issued 0x60000000).cfg.ok = true ∧ MainIdle (issued 0x60000000) ∧ hpEntry (issued 0x60000000) = false ∧
      lpEntry (issued 0x60000000) = false ∧ decode 0x60000000 = .ok .dspPoll :=
  ⟨by decide, mainIdle_of (by decide), by decide, by decide, rfl⟩

theorem test_witness_StepContinuesTheCommand :
    midEnq.cfg.ok = true ∧ hpEntry midEnq = false ∧ lpEntry midEnq = false ∧ midEnq.sched = [.proc] ∧
      midEnq.pos (active midEnq) = .run (.fqEnq .rxq 0x0172) (.enq (.s3 0)) := by decide

/-- A reserved opcode beside a listed one, and a must-be-zero bit at the low end. -/
theorem test_witness_IllFormedWordsRaiseTheirFault :
    (issued 0x0F000000).cfg.ok = true ∧ MainIdle (issued 0x0F000000) ∧ hpEntry (issued 0x0F000000) = false ∧
      lpEntry (issued 0x0F000000) = false ∧ (0x0F000000 : Command).extractLsb' 24 8 = 0x0F ∧
      MainIdle (issued 0x70010001) ∧ (0x70010001 : Command).extractLsb' 24 8 = 0x70 ∧
      (0x70010001 : Command) &&& 0x0000FFFF ≠ 0 :=
  ⟨by decide, mainIdle_of (by decide), by decide, by decide, by decide, mainIdle_of (by decide), by decide, by decide⟩

/-- The low-priority handler inside its FQ.EMPTY while MAIN stands inside FQ.ENQ. -/
def lpOverMain : State := { lpAt (.run (.fqEmpty .txq) (.queryS2 0)) .reset with posMain := midEnq.posMain, rxq := midEnq.rxq }

/-- Also HandlersLeaveResult. -/
theorem test_witness_PreemptedContextsKeepTheirPosition :
    (∃ t, contextStep lpOverMain = .next t) ∧ (∃ t, step lpOverMain = .next t) ∧ active lpOverMain ≠ .main ∧
      Ctx.main ≠ active lpOverMain :=
  ⟨⟨_, rfl⟩, ⟨_, rfl⟩, by decide, by decide⟩

/-- Room for exactly one word; no room, across the wrap. -/
theorem test_witness_FqEnqWritesThenPublishesOrDrops :
    MainIdle (withQueues ⟨[], 0, 14⟩ .reset) ∧ (∀ q, (withQueues ⟨[], 0, 14⟩ .reset).cfg.prod q = .main) ∧ (14 < Cfg.ref.capacity ∧ (14 + 1) % Cfg.ref.capacity ≠ 0) ∧
      MainIdle (withQueues ⟨[], 0, 15⟩ .reset) ∧ (15 + 1) % Cfg.ref.capacity = 0 :=
  ⟨mainIdle_of (by decide), fun q => (by cases q <;> rfl), by decide, mainIdle_of (by decide), by decide⟩

theorem test_witness_FqDeqAnswersTheOldestWordOrUnderflows :
    MainIdle (withQueues ⟨[(15, 7)], 15, 0⟩ .reset) ∧ (15 < Cfg.ref.capacity ∧ (15 : Nat) ≠ 0) ∧ MainIdle r0 ∧
      r0.cfg.cons .rxq = .main ∧ (r0.fifo .rxq).r = (r0.fifo .rxq).w :=
  ⟨mainIdle_of (by decide), by decide, mainIdle_of (by decide), rfl, rfl⟩

/-- The three clauses; the last at the last index of the table. -/
theorem test_witness_WrongContextRaisesSpscViolation :
    active (lpAt (.run (.fqEmpty .txq) .start) .reset) ≠ r0.cfg.prod .rxq ∧ active r0 ≠ r0.cfg.cons .txq ∧
      (let s : State := { built with intctl := { r0.intctl with inlp := true } }
       active s ≠ s.cfg.prod .txq ∧ microOf s = .start ∧ s.built = true ∧ (6 : BitVec 9).toNat < s.cfg.maxSlots + 3) := by decide

/-- An empty queue and a full one, with the least capacity. -/
theorem test_witness_EmptyAndFullExclude :
    (let g : Cfg := { Cfg.ref with capacity := 2 }
     2 ≤ g.capacity ∧ 0 < g.capacity ∧ 1 < g.capacity) := by decide

theorem idle_handlerInv {s : State}
    (h : (!s.intctl.inlp && !s.intctl.inhp && s.posLp == .none && s.posHp == .none && s.posMain != .hpStart) = true) :
    HandlerInv s := by
  simp only [Bool.and_eq_true, Bool.not_eq_true', beq_iff_eq, bne_iff_ne] at h
  obtain ⟨⟨⟨⟨h1, h2⟩, h3⟩, h4⟩, h5⟩ := h
  exact ⟨fun _ => h3, fun h => by simp [h1] at h, fun _ => h4, fun h => by simp [h2] at h, h5⟩

/-- Also FifoLawsHoldAtEveryStep and StepAlwaysAnswersNext: MAIN about to publish the word it has written. -/
theorem test_witness_StepKeepsFifoInv : FifoInv midEnq ∧ ∃ t, step midEnq = .next t := by
  refine ⟨⟨by decide, idle_handlerInv (by decide), ?_, ?_⟩, _, rfl⟩
  · intro q
    cases q <;> exact ⟨by decide, by decide, by decide, by decide⟩
  · intro x
    cases x
    · exact ⟨rfl, rfl, rfl, by decide⟩
    · trivial
    · trivial

/-- BAD_BAUD for each of its three reasons, SEQ_BUSY, and success. -/
theorem test_witness_UInitProgramsTheChannelOrFaults :
    (MainIdle r0 ∧ r0.cfg.present .ch0 = true) ∧ 0xFFFF < Cfg.ref.fClk / (16 * (1 : Word).toNat) - 1 ∧
      1000000 / (16 * (0xFFFF : Word).toNat) = 0 ∧
      ((19200 : Word) ≠ 0 ∧ 1 ≤ Cfg.ref.fClk / (16 * (19200 : Word).toNat) ∧
        Cfg.ref.fClk / (16 * (19200 : Word).toNat) - 1 ≤ 0xFFFF) ∧
      r0.u0.seq.phase = .idle ∧ MainIdle { inPhase .settle1 false false with posMain := .none } ∧
      { inPhase .settle1 false false with posMain := .none }.u0.seq.phase ≠ .idle :=
  ⟨⟨mainIdle_of (by decide), by decide⟩, by decide, by decide, by decide, rfl, mainIdle_of (by decide), by decide⟩

theorem test_witness_AbsentChannelRaisesNoChannel :
    MainIdle oneChannel ∧ (Instr.uTxw .ch1 0).channel = some .ch1 ∧ oneChannel.cfg.numCh ≤ Chan.ch1.num :=
  ⟨mainIdle_of (by decide), rfl, by decide⟩

/-- MAIN on an idle and on a busy sequencer, and the LP drain at L3 on an idle one. -/
theorem test_witness_UTxwBeginsOrIsBusy :
    (r0.pos (active r0) = .none ∧ r0.cfg.present .ch0 = true ∧ (r0.chan .ch0).seq.phase = .idle) ∧
      (let s : State := { inPhase .deOff false false with posMain := .none }
       s.pos (active s) = .none ∧ (s.chan .ch0).seq.phase ≠ .idle) ∧
      (let s := lpAt (.run (.uTxw .ch0 5) .start) .reset
       s.pos (active s) = .run (.uTxw .ch0 5) .start ∧ (s.chan .ch0).seq.phase = .idle) := by decide

theorem inPhase_receiveInv (p : Phase) (thr tsr : Bool) (ch : Chan) : ReceiveInv ch (inPhase p thr tsr) := by
  cases ch <;> exact ⟨Nat.zero_le _, (by intro h; cases h), (by intro h; first | rfl | cases h)⟩

/-- The same transaction, the LP drain's. -/
def lpInPhase (p : Phase) : State :=
  { inPhase p false false with
    posMain := .none, intctl := { r0.intctl with inlp := true }, posLp := .run (.uTxw .ch0 0x01FF) .inSeq }

/-- Every phase, with the waits' conditions, in MAIN and in the LP drain. -/
theorem test_witness_UTxwPhasesTakeTheirEffect (p : Phase) :
    (inPhase p false false).pos (active (inPhase p false false)) = .run (.uTxw .ch0 0x01FF) .inSeq ∧
      ((inPhase p false false).chan .ch0).seq.word = 0x01FF ∧ ReceiveInv .ch0 (inPhase p false false) ∧
      ((inPhase p false false).chan .ch0).seq.phase = p ∧ ((inPhase p false false).chan .ch0).thr.full = false ∧
      ((inPhase p false false).chan .ch0).tsr.full = false ∧ (inPhase p false false).u0.ctrl.en = true ∧
      (inPhase p false false).u0.ctrl.txen = true ∧ active (inPhase p false false) = .main ∧
      (active (lpInPhase p) = .lp ∧ (lpInPhase p).pos .lp = .run (.uTxw .ch0 0x01FF) .inSeq ∧
        (lpInPhase p).cfg.txCh = .ch0 ∧ ReceiveInv .ch0 (lpInPhase p)) :=
  ⟨rfl, rfl, inPhase_receiveInv _ _ _ _, rfl, rfl, rfl, rfl, rfl, rfl, rfl, rfl, rfl,
    ⟨Nat.zero_le _, (by intro h; cases h), (by intro h; cases h)⟩⟩

theorem test_witness_UTxwHoldsWhileWaiting :
    (inPhase .waitBuf true false).pos (active (inPhase .waitBuf true false)) = .run (.uTxw .ch0 0x01FF) .inSeq ∧
      (inPhase .waitBuf true false).u0.thr.full = true ∧ (inPhase .waitShift true false).u0.thr.full = true ∧
      (inPhase .waitShift false true).u0.tsr.full = true ∧
      (let s : State := { inPhase .waitShift false false with
          u0 := { (inPhase .waitShift false false).u0 with ctrl := { ctrlF with txen := false } } }
       s.pos (active s) = .run (.uTxw .ch0 0x01FF) .inSeq ∧ s.u0.seq.phase = .waitShift ∧ s.u0.ctrl.txen = false) := by decide

/-- MAIN about to take U.TXW 0, 0x01FF, the schedule as the statement has it. -/
def txwStart : State :=
  { u0Holding [] false with
    host := [0x210001FF]
    sched := [.proc, .proc, .proc, .proc, .proc, .proc, .load .ch0, .shift .ch0, .proc, .proc, .proc] }

theorem test_witness_UTxwSendsItsSymbol :
    txwStart.cfg.ok = true ∧ txwStart.cfg.present .ch0 = true ∧ MainIdle txwStart ∧
      txwStart.host = [encode (.uTxw .ch0 0x01FF)] ∧ txwStart.intctl.gieh = false ∧
      txwStart.cfg.tx9Sticky = false ∧ txwStart.u0.ctrl.en = true ∧ txwStart.u0.ctrl.txen = true ∧
      txwStart.u0.ctrl.de = false ∧ txwStart.u0.seq.phase = .idle ∧ txwStart.u0.thr.full = false ∧
      txwStart.u0.tsr.full = false :=
  ⟨by decide, by decide, mainIdle_of (by decide), by decide, by decide, by decide, by decide, by decide, by decide, by decide,
    by decide, by decide⟩

/-- MAIN's transaction at T_LOAD. -/
theorem test_witness_StepKeepsSeqInv :
    HandlerInv (inPhase .load false false) ∧ (∀ ch, SeqInv ch (inPhase .load false false)) ∧
      ∃ t, step (inPhase .load false false) = .next t := by
  refine ⟨idle_handlerInv (by decide), ?_, _, rfl⟩
  intro ch
  cases ch
  · refine ⟨fun _ => rfl, ?_⟩
    intro x w h
    cases x
    · exact ⟨by decide, rfl⟩
    · cases h
    · cases h
  · refine ⟨fun h => absurd rfl h, ?_⟩
    intro x w h
    cases x <;> cases h

/-- Also StepKeepsReceiveInv, with a full buffer and an arrival to come. -/
theorem test_witness_URxwReceivesTheHead :
    (MainIdle (u0Holding [⟨0x0A5, true⟩] false) ∧ (u0Holding [⟨0x0A5, true⟩] false).cfg.present .ch0 = true ∧
      ReceiveInv .ch0 (u0Holding [⟨0x0A5, true⟩] false)) ∧ MainIdle (u0Holding [] false) ∧
      (MainIdle (u0Holding [⟨0x1A5, false⟩, ⟨0x03C, true⟩] true) ∧
        ReceiveInv .ch0 (u0Holding [⟨0x1A5, false⟩, ⟨0x03C, true⟩] true) ∧
        (u0Holding [⟨0x1A5, false⟩, ⟨0x03C, true⟩] true).u0.ctrl.en = true) :=
  ⟨⟨mainIdle_of (by decide), by decide, ⟨by decide, fun _ => rfl, fun _ => rfl⟩⟩, mainIdle_of (by decide),
    mainIdle_of (by decide), ⟨by decide, fun _ => rfl, fun _ => rfl⟩, rfl⟩

theorem test_witness_URxavAndUTxrdyAnswer : MainIdle r0 ∧ r0.cfg.present .ch1 = true :=
  ⟨mainIdle_of (by decide), by decide⟩

/-- Both clauses: an enabled load and an enabled completion. -/
theorem test_witness_LineLoadsAndShifts :
    Cfg.ref.ok = true ∧ Cfg.ref.present .ch0 = true ∧ { inPhase .waitShift true false with sched := [.load .ch0] }.u0.thr.full = true ∧
      { inPhase .waitShift false true with sched := [.shift .ch0] }.u0.tsr.full = true := by decide

theorem test_witness_LineDeliversASymbol :
    (u0Holding [⟨0x1A5, false⟩] false).cfg.ok = true ∧ (u0Holding [⟨0x1A5, false⟩] false).cfg.present .ch0 = true ∧
      ({ u0Holding [⟨0x1A5, false⟩] false with sched := [.arrive .ch0 0x0FF false] }).sched =
        [.arrive .ch0 0x0FF false] := by decide

theorem test_witness_StepKeepsReceiveInv :
    (let s : State := { u0Holding [⟨0x1A5, false⟩, ⟨0x03C, true⟩] false with sched := [.arrive .ch0 0x0FF false] }
     ReceiveInv .ch0 s ∧ ∃ t, step s = .next t) :=
  ⟨⟨by decide, fun _ => rfl, fun _ => rfl⟩, _, rfl⟩

/-- Also OneWriterOfTheOutputs: the step changes OUT. -/
theorem test_witness_StepKeepsMatcherInv :
    MatcherInv (issued 0x30000FFF) ∧ ∃ t, step (issued 0x30000FFF) = .next t ∧ t.mat.out ≠ (issued 0x30000FFF).mat.out :=
  ⟨⟨by decide, by decide⟩, _, rfl, by decide⟩

set_option maxRecDepth 20000 in
theorem built_frameInv (sched : List Choice) (host : List Command) : FrameInv { built with sched := sched, host := host } :=
  ⟨rfl, (by show ∀ e ∈ built.table, e.core.length = 14; decide), fun _ => by
    show ∀ idx, idx < 7 → (entryAt built idx).count.toNat = coreCount idx ∧
      (entryAt built idx).core.take (coreCount idx) = coreWords Cfg.ref idx ∧
      (entryAt built idx).ck = crc16 Cfg.ref (coreWords Cfg.ref idx)
    decide⟩

/-- At the last index, with the last wire position and the first one past the core words. -/
theorem test_witness_FrameReadsAnswerTheFrame :
    MainIdle built ∧ FrameInv built ∧ built.built = true ∧ (6 : BitVec 9).toNat < built.cfg.maxSlots + 3 ∧
      (5 : BitVec 4).toNat < (coreWords built.cfg (6 : BitVec 9).toNat).length + 2 ∧
      (4 : BitVec 4).toNat = (coreWords built.cfg (6 : BitVec 9).toNat).length :=
  ⟨mainIdle_of (by decide), built_frameInv [] [], rfl, by decide, by decide, by decide⟩

/-- The first index and the first wire positions out of range, and the last in range of a table not built. -/
theorem test_witness_FrameFaults :
    MainIdle r0 ∧ r0.cfg.maxSlots + 3 ≤ (7 : BitVec 9).toNat ∧
      ((if (0 : BitVec 9) = 0 then 7 else 6) ≤ (7 : BitVec 4).toNat ∧ (if (1 : BitVec 9) = 0 then 7 else 6) ≤ (6 : BitVec 4).toNat) ∧
      ((6 : BitVec 9).toNat < r0.cfg.maxSlots + 3 ∧ r0.built = false ∧
        (5 : BitVec 4).toNat < (if (6 : BitVec 9) = 0 then 7 else 6)) :=
  ⟨mainIdle_of (by decide), by decide, by decide, by decide⟩

theorem test_witness_StepKeepsFrameInv :
    FrameInv { built with sched := [.proc], host := [0x44000002] } ∧
      ∃ t, step { built with sched := [.proc], host := [0x44000002] } = .next t :=
  ⟨built_frameInv _ _, _, rfl⟩

/-- Room for exactly the Disconnect frame; B12, room for five of six words; and a full queue. -/
theorem test_witness_FbEnqEnqueuesTheFrame :
    (let s : State := { built with txq := ⟨[], 0, 8⟩ }
     MainIdle s ∧ s.cfg.ok = true ∧ s.cfg.prod .txq = .main ∧ QueueInv s.cfg s.txq ∧ s.built = true ∧
      (0 : BitVec 9).toNat < s.cfg.maxSlots + 3 ∧ 7 = min 7 (s.cfg.capacity - 1 - s.txq.count s.cfg)) ∧
      (let s : State := { built with txq := ⟨[], 0, 10⟩ }
       MainIdle s ∧ QueueInv s.cfg s.txq ∧ (2 : BitVec 9) ≠ 0 ∧ 5 = min 6 (s.cfg.capacity - 1 - s.txq.count s.cfg)) ∧
      (let s : State := { built with txq := ⟨[], 0, 15⟩ }
       MainIdle s ∧ QueueInv s.cfg s.txq ∧ (s.txq.w + 1) % s.cfg.capacity = s.txq.r ∧
        0 = min 6 (s.cfg.capacity - 1 - s.txq.count s.cfg)) :=
  ⟨⟨mainIdle_of (by decide), by decide, rfl, ⟨by decide, by decide, by decide, by decide⟩, rfl, by decide, by decide⟩,
    ⟨mainIdle_of (by decide), ⟨by decide, by decide, by decide, by decide⟩, by decide, by decide⟩,
    mainIdle_of (by decide), ⟨by decide, by decide, by decide, by decide⟩, by decide, by decide⟩

/-- Nothing held; a fault-free word; a word with a framing flag; an overrun. -/
theorem test_witness_DspPollFeedsFaultFreeWordsOnly :
    (MainIdle r0 ∧ r0.cfg.ok = true ∧ r0.u0.ctrl.en = false) ∧ MainIdle (u0Holding [⟨0x100, false⟩] false) ∧
      (u0Holding [⟨0x100, false⟩] false).u0.ctrl.en = true ∧ MainIdle (u0Holding [⟨0x0A5, true⟩] false) ∧
      MainIdle (u0Holding [⟨0x055, false⟩, ⟨0x066, false⟩] true) :=
  ⟨⟨mainIdle_of (by decide), by decide, rfl⟩, mainIdle_of (by decide), rfl, mainIdle_of (by decide), mainIdle_of (by decide)⟩

theorem test_witness_RegRdAnswersTheRegister : MainIdle r0 ∧ r0.cfg.numCh = 2 := ⟨mainIdle_of (by decide), rfl⟩

/-- An unmapped address beside a mapped one, one of the absent channel, and read-only ones. -/
theorem test_witness_RegisterPortFaults :
    MainIdle r0 ∧ (0x03 : Byte) ∉ ([0x00, 0x01, 0x02, 0x08] : List Byte) ∧ MainIdle oneChannel ∧ oneChannel.cfg.numCh = 1 ∧
      (0x0A : Byte) ∈ ([0x08, 0x09, 0x0A] : List Byte) ∧ r0.cfg.numCh = 2 ∧
      (0x24 : Byte) ∈ ([0x01, 0x10, 0x14, 0x15, 0x16, 0x17, 0x18, 0x1F, 0x20, 0x21, 0x22, 0x23, 0x24] : List Byte) :=
  ⟨mainIdle_of (by decide), by decide, mainIdle_of (by decide), rfl, by decide, rfl, by decide⟩

theorem test_witness_RegWrCtrlHasItsEdgeEffects :
    (let s : State := { inPhase .waitShift false true with posMain := .none }
     MainIdle s ∧ s.cfg.present .ch0 = true ∧ s.cfg.present .ch1 = true ∧ ReceiveInv .ch0 s ∧ ReceiveInv .ch1 s) :=
  ⟨mainIdle_of (by decide), by decide, by decide, ⟨by decide, (by intro h; cases h), (by intro h; cases h)⟩,
    ⟨by decide, (by intro h; cases h), fun _ => rfl⟩⟩

/-- A command that faults, on a state already faulted, and one that does not. -/
theorem test_witness_AFaultChangesErrAndPositionOnly :
    (let s : State := { r0 with err := ⟨0x01, true⟩ }
     ∃ u, exec (.fqDeq .rxq) { s with err := ⟨0, false⟩ } = .next u ∧ u.err.faulted = true ∧ u.err.code = faultByte .fifoUnderflow) ∧
      ∃ u, exec (.ckUpd 5) { r0 with err := ⟨0, false⟩ } = .next u ∧ u.err.faulted = false :=
  ⟨⟨_, rfl, by decide, by decide⟩, _, rfl, by decide⟩

theorem test_witness_CommandsWithoutResultLeaveIt : ∃ t, exec (.ckUpd 5) r0 = .next t := ⟨_, rfl⟩

/-- E2: a second fault. Also StepKeepsErrInv. -/
theorem test_witness_ErrIsSticky :
    (let s : State := { issued 0x12100000 with err := ⟨0x01, true⟩ }
     s.err.faulted = true ∧ ErrInv s ∧ ∃ t, step s = .next t) :=
  ⟨rfl, ⟨fun h => (by cases h), fun _ => ⟨.illegalCmd, rfl⟩⟩, _, rfl⟩

/-- Both entries enabled at once, and the low one alone. -/
theorem test_witness_InterruptEntryComesFirst :
    (let s : State := { u0Holding [⟨0, false⟩] false with
        u0 := { (u0Holding [⟨0, false⟩] false).u0 with ctrl := { ctrlF with rxie := true, rxip := true } }
        intctl := ⟨true, true, true, true, true, false, false⟩, sched := [.proc] }
     s.cfg.ok = true ∧ s.intctl.gieh = true ∧ s.intctl.inhp = false ∧ hpPend s = true) ∧
      (let s : State := { r0 with intctl := ⟨true, true, true, true, true, false, false⟩, sched := [.proc] }
       s.cfg.ok = true ∧ s.intctl.gieh = true ∧ s.intctl.inhp = false ∧ hpPend s = false ∧ lpPend s = true ∧
        s.intctl.giel = true ∧ s.intctl.inlp = false) := by decide

/-- The high-priority handler active over the low-priority one. -/
theorem test_witness_HpHandlerReturnsAtOnce :
    (let s : State := { lpOverMain with intctl := ⟨true, true, true, true, false, true, true⟩, posHp := .hpStart }
     s.cfg.ok = true ∧ s.sched = [.proc] ∧ s.intctl.inhp = true ∧ s.posHp = .hpStart) := by decide

/-- The five positions: L1 on an empty and on a non-empty queue, L2 at the last slot, the end of L3, L3 on a busy sequencer. -/
theorem test_witness_LpDrainFollowsItsSteps :
    (let s := lpAt (.run (.fqEmpty .txq) .start) .reset
     active s = .lp ∧ s.posLp = .run (.fqEmpty .txq) .start ∧ s.txq.r = s.txq.w) ∧
    (let s := lpAt (.run (.fqEmpty .txq) .start) ⟨[(15, 5)], 15, 0⟩
     active s = .lp ∧ s.txq.r ≠ s.txq.w) ∧
    (let s := lpAt (.run (.fqDeq .txq) .start) ⟨[(15, 5)], 15, 0⟩
     active s = .lp ∧ s.posLp = .run (.fqDeq .txq) .start ∧ s.cfg.cons .txq = .lp ∧ s.txq.r < s.cfg.capacity ∧ s.txq.r ≠ s.txq.w) ∧
    (let s : State := { lpAt (.run (.uTxw .ch0 5) .inSeq) .reset with u0 := { Channel.reset with seq := ⟨.deOff, 5, .lp⟩ } }
     active s = .lp ∧ s.posLp = .run (.uTxw s.cfg.txCh 5) .inSeq ∧ (s.chan s.cfg.txCh).seq.phase = .deOff) ∧
    (let s : State := { lpAt (.run (.uTxw .ch0 5) .start) .reset with u0 := { Channel.reset with seq := ⟨.waitShift, 7, .main⟩ } }
     active s = .lp ∧ s.posLp = .run (.uTxw s.cfg.txCh 5) .start ∧ s.cfg.present s.cfg.txCh = true ∧
      (s.chan s.cfg.txCh).seq.phase ≠ .idle) := by decide

theorem test_witness_StepKeepsHandlerInv :
    HandlerInv (lpAt (.run (.fqDeq .txq) .start) ⟨[(15, 5)], 15, 0⟩) ∧
      ∃ t, step (lpAt (.run (.fqDeq .txq) .start) ⟨[(15, 5)], 15, 0⟩) = .next t :=
  ⟨⟨fun h => (by cases h), fun _ => ⟨.start, .inr (.inl rfl)⟩, fun _ => rfl, fun h => (by cases h), by decide⟩, _, rfl⟩

theorem test_witness_TickSetsTickf : { r0 with sched := [.tmr] }.cfg.ok = true ∧ { r0 with sched := [.tmr] }.sched = [.tmr] := by
  decide

/-- A byte waits in channel 0's holding register, and the timer is on. -/
def fairStart : State :=
  { inPhase .waitShift true false with posMain := .none, sched := [], intctl := ⟨false, false, false, true, false, false, false⟩ }

/-- The shifter takes the byte first, then the timer ticks at every step. -/
def fairChoices : Nat → Choice
  | 0 => .load .ch0
  | _ => .tmr

/-- The states of that run. -/
def fairStates : Nat → State
  | 0 => fairStart
  | 1 => lineLoad .ch0 fairStart
  | _ => tick (lineLoad .ch0 fairStart)

theorem test_witness_FairRunsLoadAndTick :
    FairRun fairChoices fairStates ∧ loadEnabled .ch0 (fairStates 0) = true ∧ ∀ m, 0 ≤ m → (fairStates m).intctl.tmren = true := by
  have idle : ∀ ch m, loadEnabled ch (fairStates (m + 1)) = false := by
    intro ch m
    rcases m with _ | m
    · cases ch <;> decide
    · show loadEnabled ch (fairStates 2) = false
      cases ch <;> decide
  refine ⟨⟨?_, ?_, ?_⟩, by decide, ?_⟩
  · intro n
    rcases n with _ | _ | n <;> rfl
  · intro ch n h
    have hn := h (n + 1) (Nat.le_succ n)
    rw [idle] at hn
    exact absurd hn (by decide)
  · exact fun n _ => ⟨n + 1, Nat.le_succ n, rfl⟩
  · intro m _
    rcases m with _ | _ | m <;> rfl

theorem test_witness_ResetHasTheInvariants : Cfg.ref.ok = true := by decide

end Sys2Proof.Tests
end

/-! PROOFS. The family of spec/30_encoding.md: what an idle MAIN's step does with a word that does not decode (R152, R153), and what
the trigger says after three words were fed (R147). -/

namespace Sys2Proof.Encoding

open Sys2Proof.Machine Sys2Proof.Safety

/-! ### The step of an idle MAIN (R154, R459) -/

/-- With no entry enabled and the processor next, an idle MAIN begins the host's next word; the word and the choice are taken. -/
theorem step_begins_next_command {s : State} {c : Command} {rest : List Command} {cs : List Choice} (hcfg : s.cfg.ok = true)
    (hidle : MainIdle s) (hhp : hpEntry s = false) (hlp : lpEntry s = false) (hsched : s.sched = .proc :: cs)
    (hhost : s.host = c :: rest) : step s = beginCommand c { s with sched := cs, host := rest } := by
  obtain ⟨hactive, hpos⟩ := hidle
  let t : State := { s with sched := cs }
  have hactive' : active t = .main := hactive
  have hpos' : t.pos .main = .none := hpos
  calc step s = processorStep t := by simp [step, hcfg, takeChoice_cons hsched, agentStep, t]
    _ = contextStep t := by simp [processorStep, show hpEntry t = false from hhp, show lpEntry t = false from hlp]
    _ = nextCommand t := by simp [contextStep, hactive', hpos']
    _ = beginCommand c { s with sched := cs, host := rest } := by simp [nextCommand, t, hhost]

/-- A decode fault of an idle MAIN is recorded in ERR, and nothing else changes (R154, R451). -/
theorem beginCommand_decode_fault {s : State} {c : Command} {k : FaultCode} (hidle : MainIdle s) (hc : decode c = .error k) :
    beginCommand c s = .next { s with err := recordFault k s.err } := by
  obtain ⟨hactive, hpos⟩ := hidle
  simp [beginCommand, hc, raised, raiseFault_main k hactive, ← hpos]

/-! ### The words that do not decode (R151 to R153) -/

/-- The opcode map of R151: each listed opcode with its must-be-zero bits (R150). -/
def opcodeMap : List (Byte × Command) :=
  [(0x10, 0x00EFFFFF), (0x11, 0x00EF0000), (0x12, 0x00EFFFFF), (0x13, 0x00EFFFFF), (0x14, 0x00EFFFFF),
    (0x20, 0x00EC0000), (0x21, 0x00EF0000), (0x22, 0x00EFFFFF), (0x23, 0x00EFFFFF), (0x24, 0x00EFFFFF),
    (0x30, 0x00FF0000), (0x40, 0x00FFFFFF), (0x41, 0x000FFE00), (0x42, 0x00FFFE00), (0x43, 0x00FFFE00),
    (0x44, 0x00FFFE00), (0x50, 0x00FFFFFF), (0x51, 0x00FF0000), (0x52, 0x00FFFFFF), (0x60, 0x00FFFFFF),
    (0x70, 0x0000FFFF), (0x71, 0x00000000)]

/-- The decoder's masks are the rows of the map, and no others. -/
theorem mbzMask_eq_some_iff {op : Byte} {m : Command} : mbzMask op = some m ↔ (op, m) ∈ opcodeMap := by
  have hrows : ∀ row ∈ opcodeMap, mbzMask row.1 = some row.2 := by simp [opcodeMap, mbzMask]
  refine ⟨fun h => ?_, hrows (op, m)⟩
  unfold mbzMask at h
  split at h <;> cases h
  all_goals simp [opcodeMap, ← BitVec.toNat_inj, *]

/-- An opcode without a row has no mask: it is reserved (R152). -/
theorem mbzMask_eq_none {op : Byte} (h : op ∉ opcodeMap.map Prod.fst) : mbzMask op = none :=
  Option.eq_none_iff_forall_ne_some.2 fun _ hm => h (List.mem_map_of_mem (mbzMask_eq_some_iff.1 hm))

/-- Where there is a mask there is a command: both read the same opcode map. -/
theorem operandsOf_of_mbzMask {c m : Command} (h : mbzMask (fieldOp c) = some m) : ∃ i, operandsOf c = some i := by
  unfold mbzMask at h
  split at h <;> cases h
  all_goals simp [operandsOf, *]

/-- A reserved opcode is ILLEGAL_CMD (R152). -/
theorem decode_reserved {c : Command} (h : fieldOp c ∉ opcodeMap.map Prod.fst) : decode c = .error .illegalCmd := by
  simp [decode, mbzMask_eq_none h]

/-- A 1 in a must-be-zero bit of a listed opcode is BAD_FIELD (R153). -/
theorem decode_mbz_violated {c : Command} {row : Byte × Command} (hrow : row ∈ opcodeMap) (hop : fieldOp c = row.1)
    (hbit : c &&& row.2 ≠ 0) : decode c = .error .badField := by
  have hmask : mbzMask (fieldOp c) = some row.2 := hop ▸ mbzMask_eq_some_iff.2 hrow
  obtain ⟨i, hi⟩ := operandsOf_of_mbzMask hmask
  simp only [decode, hmask, hi, if_neg hbit]

/-- Settles O6: the step of an idle MAIN begins the word, the word does not decode, and a fault of MAIN changes ERR only. -/
theorem illFormedWordsRaiseTheirFault : Obligations.IllFormedWordsRaiseTheirFault := by
  intro s c rest cs hcfg hidle hhp hlp hsched hhost
  have faults : ∀ k, decode c = .error k →
      step s = .next { s with sched := cs, host := rest, err := recordFault k s.err } := fun k hk =>
    (step_begins_next_command hcfg hidle hhp hlp hsched hhost).trans
      (beginCommand_decode_fault (s := { s with sched := cs, host := rest }) hidle hk)
  constructor
  · exact fun hop => faults .illegalCmd (decode_reserved hop)
  · intro row hrow hop hbit
    exact faults .badField (decode_mbz_violated (List.mem_of_mem_dropLast (l := opcodeMap) hrow) hop hbit)

/-! ### Three feeds and the trigger (R147, R301, R303) -/

/-- DM.FEED of an idle MAIN is its body: the command ends in its one step, without a result (R301, R305). -/
theorem exec_dmFeed_main {s : State} (w : Word) (hidle : MainIdle s) : exec (.dmFeed w) s = .next (feed w s) := by
  obtain ⟨hactive, hpos⟩ := hidle
  have hend : complete (.dmFeed w) none (feed w s) = feed w s := by
    rw [complete_main (s := feed w s) _ _ hactive]
    simp [feed, ← hpos]
  exact congrArg Host.Outcome.next hend

/-- Feeds of an idle MAIN, one after another, feed the matcher word by word. -/
theorem runsEach_dmFeed (ws : List Word) {s : State} (hidle : MainIdle s) :
    RunsEach (ws.map .dmFeed) s (ws.foldl (fun t w => feed w t) s) := by
  induction ws generalizing s with
  | nil => rfl
  | cons w ws ih => exact ⟨feed w s, exec_dmFeed_main w hidle, ih hidle⟩

/-- A feed sets the trigger from the history after the shift (R303). -/
theorem trigger_feed (w : Word) (s : State) :
    trigger (feed w s) = signature (w.extractLsb' 0 9) s.mat.hist0 s.mat.hist1 := by
  simp only [trigger, feed, Matcher.feed, BitVec.getLsbD_append]
  simp

theorem signature_iff (h0 h1 h2 : Symbol) : signature h0 h1 h2 = true ↔ h2 = 0x072 ∧ h1 = 0x017 ∧ h0 = 0x100 := by
  simp only [signature, Bool.and_eq_true, beq_iff_eq]
  tauto

/-- A word masked to 9 bits is a symbol exactly when its low 9 bits are. -/
theorem and_mask9_eq_iff (w : Word) (y : Symbol) : w &&& 0x1FF = y.setWidth 16 ↔ w.extractLsb' 0 9 = y := by
  have hmask : w &&& 0x1FF = (w.extractLsb' 0 9).setWidth 16 := by
    apply BitVec.eq_of_toNat_eq
    have := Nat.and_two_pow_sub_one_eq_mod w.toNat 9
    simp at this ⊢
    omega
  rw [hmask]
  exact ⟨fun h => by simpa using congrArg (BitVec.setWidth 9) h, congrArg _⟩

/-- Settles O30: after three feeds the history is the three words' low 9 bits, whatever it was before, and the trigger is the
signature of that history. -/
theorem triggerMeansTheSignature : Obligations.TriggerMeansTheSignature := by
  intro s a b c hidle
  refine ⟨feed c (feed b (feed a s)), runsEach_dmFeed [a, b, c] hidle, ?_⟩
  have hhist : trigger (feed c (feed b (feed a s))) =
      signature (c.extractLsb' 0 9) (b.extractLsb' 0 9) (a.extractLsb' 0 9) := trigger_feed c _
  rw [hhist, signature_iff, ← and_mask9_eq_iff a, ← and_mask9_eq_iff b, ← and_mask9_eq_iff c]
  rfl

end Sys2Proof.Encoding

/-! PROOFS. The family of spec/40_fifo.md: FQ.INIT, FQ.EMPTY and FQ.FULL of an idle MAIN (R201, R204, R205). -/

namespace Sys2Proof.FifoCommands

open Sys2Proof.Machine Sys2Proof.Safety

/-! ### The end of a command of an idle MAIN (R159) -/

/-- A command that ends in the step MAIN begins it leaves its result, and nothing else. -/
theorem complete_mainIdle {s : State} (i : Instr) (res : Option Word) (hidle : MainIdle s) :
    complete i res s = { s with result := res.getD s.result } := by
  obtain ⟨hactive, hpos⟩ := hidle
  rw [complete_main i res hactive, ← hpos]

/-- One that went on in between does too: its position is gone at the end. -/
theorem complete_goOn_mainIdle {s : State} (i : Instr) (m : Micro) (res : Option Word) (hidle : MainIdle s) :
    complete i res (goOn i m s) = { s with result := res.getD s.result } := by
  obtain ⟨hactive, hpos⟩ := hidle
  rw [complete_main i res (by rw [active_goOn, hactive]), ← hpos]
  simp [goOn, hactive, State.setPos]

theorem mainIdle_setFifo {s : State} (q : Queue) (f : Fifo) (hidle : MainIdle s) : MainIdle (s.setFifo q f) := by
  obtain ⟨hactive, hpos⟩ := hidle
  exact ⟨by rw [active_setFifo, hactive], by rw [setFifo_posMain, hpos]⟩

/-! ### The microsteps of FQ.EMPTY and FQ.FULL (R204, R205) -/

/-- s1 of FQ.EMPTY loads Q.r. -/
theorem exec_fqEmpty_s1 {s : State} (q : Queue) (h : microOf s = .start) :
    exec (.fqEmpty q) s = .next (goOn (.fqEmpty q) (.queryS2 (s.fifo q).r) s) := by
  simp [exec, execFqEmpty, h]

/-- s2 of FQ.EMPTY compares the loaded index with Q.w. -/
theorem exec_fqEmpty_s2 {s : State} {a : Nat} (q : Queue) (h : microOf s = .queryS2 a) :
    exec (.fqEmpty q) s = done (.fqEmpty q) (some (boolWord (a == (s.fifo q).w))) s := by
  simp [exec, execFqEmpty, h]

/-- s1 of FQ.FULL loads Q.r. -/
theorem exec_fqFull_s1 {s : State} (q : Queue) (h : microOf s = .start) :
    exec (.fqFull q) s = .next (goOn (.fqFull q) (.queryS2 (s.fifo q).r) s) := by
  simp [exec, execFqFull, h]

/-- s2 of FQ.FULL compares the loaded index with the one after Q.w. -/
theorem exec_fqFull_s2 {s : State} {a : Nat} (q : Queue) (h : microOf s = .queryS2 a) :
    exec (.fqFull q) s = done (.fqFull q) (some (boolWord (nextIndex s.cfg (s.fifo q).w == a))) s := by
  simp [exec, execFqFull, h]

/-- A command of an idle MAIN that goes on once and then answers `b` takes two steps and changes RESULT only. -/
theorem runsTo_goOn_answer {s : State} {i : Instr} {m : Micro} {b : Bool} (hidle : MainIdle s)
    (hs1 : exec i s = .next (goOn i m s))
    (hs2 : exec i (goOn i m s) = done i (some (boolWord b)) (goOn i m s)) :
    RunsTo i 2 s { s with result := boolWord b } := by
  refine ⟨goOn i m s, hs1, { s with result := boolWord b }, ?_, rfl⟩
  rw [hs2, done, complete_goOn_mainIdle i m _ hidle, Option.getD_some]

/-- The answer to a comparison of indices, as the statements write it. -/
theorem boolWord_beq (a b : Nat) : boolWord (a == b) = if a = b then 0x0001 else 0x0000 := by
  simp [boolWord]

/-! ### The obligations -/

/-- Settles O8: FQ.INIT ends in its one step, without a result, so only the queue changes. -/
theorem fqInitEmptiesTheQueue : Obligations.FqInitEmptiesTheQueue := by
  intro s q hidle
  have hend := complete_mainIdle (.fqInit q) none (mainIdle_setFifo q { s.fifo q with r := 0, w := 0 } hidle)
  exact congrArg Host.Outcome.next hend

/-- Settles O12: both commands load Q.r in s1; s2 compares it with Q.w (FQ.EMPTY) or with the index after Q.w (FQ.FULL). -/
theorem fqEmptyAndFqFullAnswerTheirPredicate : Obligations.FqEmptyAndFqFullAnswerTheirPredicate := by
  intro s q hidle
  have hstart : microOf s = .start := microOf_main_none hidle.1 hidle.2
  constructor
  · have hs2 := exec_fqEmpty_s2 q (microOf_goOn (.fqEmpty q) (.queryS2 (s.fifo q).r) s)
    rw [goOn_fifo] at hs2
    rw [← boolWord_beq]
    exact runsTo_goOn_answer hidle (exec_fqEmpty_s1 q hstart) hs2
  · have hs2 := exec_fqFull_s2 q (microOf_goOn (.fqFull q) (.queryS2 (s.fifo q).r) s)
    rw [goOn_fifo, goOn_cfg] at hs2
    rw [← boolWord_beq]
    exact runsTo_goOn_answer hidle (exec_fqFull_s1 q hstart) hs2

end Sys2Proof.FifoCommands

/-! PROOFS. The family of spec/41_uart.md: U.RXAV and U.TXRDY (R248, R251), a write of CTRL by REG.WR (R254, R263, R265, R403), and a
symbol that arrives (R262, R266). -/

namespace Sys2Proof.UartChannel

open Sys2Proof.Machine Sys2Proof.Safety Sys2Proof.FifoCommands

/-! ### The two queries (R248, R251) -/

/-- A C-format command on a present channel goes straight to its body (R153). -/
theorem onChannel_present {ch : Chan} {s : State} (body : Out) (hpres : s.cfg.present ch = true) :
    onChannel ch s body = body := by
  simp [onChannel, hpres]

/-- A boolean answer of an idle MAIN's command changes RESULT only (R159). -/
theorem done_boolWord_mainIdle {s : State} (i : Instr) (b : Bool) (hidle : MainIdle s) :
    done i (some (boolWord b)) s = .next { s with result := if b = true then 0x0001 else 0x0000 } :=
  congrArg Host.Outcome.next (complete_mainIdle i (some (boolWord b)) hidle)

theorem rxAvailable_iff (ch : Chan) (s : State) :
    rxAvailable ch s = true ↔ (s.chan ch).ctrl.en = true ∧ (s.chan ch).rxb ≠ [] := by
  simp [rxAvailable, State.ctrl, Channel.rxav]

theorem txReady_iff (ch : Chan) (s : State) :
    txReady ch s = true ↔ (s.chan ch).ctrl.txen = true ∧ (s.chan ch).thr.full = false := by
  simp [txReady, State.ctrl, Channel.txbf]

/-- Settles O24: on a present channel each query is its boolean answer, and the answer is its condition. -/
theorem uRxavAndUTxrdyAnswer : Obligations.URxavAndUTxrdyAnswer := by
  intro s ch hidle hpres
  constructor
  · calc exec (.uRxav ch) s = done (.uRxav ch) (some (boolWord (rxAvailable ch s))) s := onChannel_present _ hpres
      _ = _ := by simp only [done_boolWord_mainIdle _ _ hidle, rxAvailable_iff]
  · calc exec (.uTxrdy ch) s = done (.uTxrdy ch) (some (boolWord (txReady ch s))) s := onChannel_present _ hpres
      _ = _ := by simp only [done_boolWord_mainIdle _ _ hidle, txReady_iff]

/-! ### The write of CTRL (R35, R254, R263, R265) -/

/-- Where DE is 0 whenever it is hardwired, CTRL reads as it is stored (R35). -/
theorem ctrl_eq_stored {ch : Chan} {s : State} (hinv : ReceiveInv ch s) : s.ctrl ch = (s.chan ch).ctrl := by
  have hde : ((s.chan ch).ctrl.de && s.cfg.hasDir ch) = (s.chan ch).ctrl.de := by
    cases hdir : s.cfg.hasDir ch
    · simp [hinv.hardwired hdir]
    · simp
  simp [State.ctrl, hde]

/-- The transmitter keeps its bytes when neither EN nor TXEN falls (R254). -/
theorem not_transmitterFalls (old new : Ctrl) :
    (!transmitterFalls old new) = ((!old.en || new.en) && (!old.txen || new.txen)) := by
  simp [transmitterFalls]

/-- OERR stands when RXEN does not fall (R263). -/
theorem not_receiverFalls (old new : Ctrl) : (!receiverFalls old new) = (!old.rxen || new.rxen) := by
  simp [receiverFalls]

theorem mainIdle_writeCtrl {s : State} (ch : Chan) (c : Ctrl) (hidle : MainIdle s) : MainIdle (writeCtrl ch c s) := by
  obtain ⟨hactive, hpos⟩ := hidle
  exact ⟨by rw [active_writeCtrl, hactive], by rw [writeCtrl_posMain, hpos]⟩

/-- The addresses of CTRL in the register map (R103). -/
def ctrlAddr : Chan → Byte
  | .ch0 => 0x00
  | .ch1 => 0x08

theorem regAt_ctrlAddr {g : Cfg} {ch : Chan} (hpres : g.present ch = true) : regAt g (ctrlAddr ch) = some (.ctrl ch) := by
  cases ch with
  | ch0 => rfl
  | ch1 => simp [ctrlAddr, regAt, ifPresent, hpres]

/-- REG.WR of an idle MAIN to CTRL of a present channel is the one write of CTRL, and nothing more (R265, R402, R403). -/
theorem exec_regWr_ctrl {s : State} {ch : Chan} (v : Word) (hidle : MainIdle s) (hpres : s.cfg.present ch = true) :
    exec (.regWr (ctrlAddr ch) v) s = .next (writeCtrl ch (Ctrl.ofWord v) s) := by
  have hbody : exec (.regWr (ctrlAddr ch) v) s =
      done (.regWr (ctrlAddr ch) v) none (writeCtrl ch (Ctrl.ofWord v) s) := by
    simp [exec, execRegWr, regAt_ctrlAddr hpres, writable, writeReg]
  rw [hbody, done, complete_mainIdle _ none (mainIdle_writeCtrl ch _ hidle), Option.getD_none]

/-- Settles O44: the write reads CTRL as it is stored, since a hardwired DE is 0 there, so its edges are those of the stored
fields. -/
theorem regWrCtrlHasItsEdgeEffects : Obligations.RegWrCtrlHasItsEdgeEffects := by
  intro s ch v hidle hpres hinv
  refine (exec_regWr_ctrl v hidle hpres).trans ?_
  simp only [writeCtrl, ctrl_eq_stored hinv, not_transmitterFalls, not_receiverFalls, ctrlEvents, Ctrl.ofWord,
    Bool.and_assoc, List.append_assoc]

/-! ### The arrival of a symbol (R262, R266) -/

/-- With an arrival next, the step is the arrival. -/
theorem step_arrive {s : State} {ch : Chan} {sym : Symbol} {fe : Bool} {cs : List Choice} (hcfg : s.cfg.ok = true)
    (hsched : s.sched = .arrive ch sym fe :: cs) : step s = .next (lineArrive ch sym fe { s with sched := cs }) := by
  simp [step, hcfg, takeChoice_cons hsched, agentStep]

/-- An arrival on a present channel is discarded when the channel or its receiver is off, its driver is on, or an overrun
stands (R262). -/
theorem discards_iff {ch : Chan} {s : State} (hpres : s.cfg.present ch = true) :
    hears ch s = false ∨ (s.chan ch).oerr = true ↔
      (s.chan ch).ctrl.en = false ∨ (s.chan ch).ctrl.rxen = false ∨
        (s.cfg.hasDir ch = true ∧ (s.chan ch).ctrl.de = true) ∨ (s.chan ch).oerr = true := by
  have hde : s.cfg.hasDir ch = true ∧ (s.ctrl ch).de = true ↔ s.cfg.hasDir ch = true ∧ (s.chan ch).ctrl.de = true := by
    simp +contextual [State.ctrl]
  rw [← hde]
  simp only [hears, hpres, Bool.true_and, Bool.and_eq_false_iff, Bool.not_eq_false', Bool.and_eq_true, or_assoc]
  rfl

theorem lineArrive_discarded {ch : Chan} {s : State} (sym : Symbol) (fe : Bool)
    (hdisc : hears ch s = false ∨ (s.chan ch).oerr = true) : lineArrive ch sym fe s = s := by
  rcases hdisc with hdeaf | hoerr
  · simp [lineArrive, hdeaf]
  · simp [lineArrive, hoerr]

theorem lineArrive_overruns {ch : Chan} {s : State} (sym : Symbol) (fe : Bool)
    (hdisc : ¬(hears ch s = false ∨ (s.chan ch).oerr = true)) (hfull : (s.chan ch).rxb.length = s.cfg.rxbufDepth) :
    lineArrive ch sym fe s = s.setChan ch { s.chan ch with oerr := true } := by
  obtain ⟨hhears, hoerr⟩ := not_or.1 hdisc
  simp [lineArrive, hhears, hoerr, hfull]

/-- The mode of a symbol is NINE alone, which reads as it is stored. -/
theorem symbolInMode_ctrl (s : State) (ch : Chan) (sym : Symbol) :
    symbolInMode (s.ctrl ch) sym = symbolInMode (s.chan ch).ctrl sym :=
  rfl

/-- A symbol that is held is stored as the mode has it (R266). -/
theorem lineArrive_held {ch : Chan} {s : State} (sym : Symbol) (fe : Bool)
    (hdisc : ¬(hears ch s = false ∨ (s.chan ch).oerr = true)) (hroom : (s.chan ch).rxb.length ≠ s.cfg.rxbufDepth) :
    lineArrive ch sym fe s = s.setChan ch
      { s.chan ch with rxb := (s.chan ch).rxb ++ [⟨symbolInMode (s.chan ch).ctrl sym, fe⟩] } := by
  obtain ⟨hhears, hoerr⟩ := not_or.1 hdisc
  simp [lineArrive, hhears, hoerr, hroom, symbolInMode_ctrl]

theorem setChan_withSched (s : State) (ch : Chan) (u : Channel) (cs : List Choice) :
    ({ s with sched := cs } : State).setChan ch u = { s.setChan ch u with sched := cs } := by
  cases ch <;> rfl

/-- Settles O27: the step is the arrival, which has three outcomes, and the choice it takes is the only other change. -/
theorem lineDeliversASymbol : Obligations.LineDeliversASymbol := by
  intro s ch sym fe cs hcfg hpres hsched
  refine (step_arrive hcfg hsched).trans (congrArg Host.Outcome.next ?_)
  have hiff := discards_iff (s := { s with sched := cs }) hpres
  split
  · next hdisc => exact lineArrive_discarded sym fe (hiff.2 hdisc)
  · next hkeeps =>
    have hkeeps' := mt hiff.1 hkeeps
    split
    · next hfull => exact (lineArrive_overruns sym fe hkeeps' hfull).trans (setChan_withSched s ch _ cs)
    · next hroom => exact (lineArrive_held sym fe hkeeps' hroom).trans (setChan_withSched s ch _ cs)

end Sys2Proof.UartChannel

/-! PROOFS. The family of spec/42_demux.md: what DM.FEED of an idle MAIN leaves in the history, the trigger and the taps (R301, R303,
R304). -/

namespace Sys2Proof.Demux

open Sys2Proof.Machine Sys2Proof.Safety Sys2Proof.Encoding

/-! ### The taps and the unused lines of OUT after a feed (R51, R301) -/

/-- The taps OUT[7:0] are the raw word's bits 11..4 in their order (R304). -/
theorem out_feed_taps (m : Matcher) (w : Word) {i : Nat} (hi : i < 8) :
    (m.feed w).out.getLsbD i = w.getLsbD (4 + i) := by
  simp only [Matcher.feed, BitVec.getLsbD_append, if_pos hi]
  simp [hi]

/-- OUT[11:9], the unused lines, are kept. -/
theorem out_feed_unused (m : Matcher) (w : Word) {i : Nat} (hi : 9 ≤ i) :
    (m.feed w).out.getLsbD i = m.out.getLsbD i := by
  have habove : ¬i < 8 ∧ ¬i - 8 < 1 ∧ 9 + (i - 8 - 1) = i := by omega
  have hwidth : i - 8 - 1 < 3 ↔ i < 12 := by omega
  simp only [Matcher.feed, BitVec.getLsbD_append, BitVec.getLsbD_extractLsb', habove, if_false, hwidth]
  by_cases hin : i < 12
  · simp [hin]
  · simp [hin, BitVec.getLsbD_of_ge m.out i (by omega)]

/-! ### The tap masks (R304) -/

/-- The mask of tap `k` is the one bit `11 - k`; the statement shifts it as a number and takes the word of that. -/
theorem tapMask_eq_twoPow : ∀ k < 8, ((0x0800 >>> k : ℕ) : Word) = BitVec.twoPow 16 (11 - k) := by decide

/-- A word meets a one-bit mask exactly when it has that bit. -/
theorem decide_and_twoPow_ne_zero (w : Word) {i : Nat} (hi : i < 16) :
    decide (w &&& BitVec.twoPow 16 i ≠ 0) = w.getLsbD i := by
  have hmask : BitVec.twoPow 16 i ≠ 0 := fun h => by
    simpa [hi] using congrArg (BitVec.getLsbD · i) h
  cases hbit : w.getLsbD i
  · simp [BitVec.and_twoPow, hbit]
  · simpa [BitVec.and_twoPow, hbit] using hmask

/-- Settles O29: DM.FEED of an idle MAIN is its body, which writes the matcher only; the taps by position are the taps by mask, and
the trigger is the signature of the shifted history. -/
theorem dmFeedUpdatesHistoryTriggerAndTaps : Obligations.DmFeedUpdatesHistoryTriggerAndTaps := by
  intro s w hidle
  refine ⟨feed w s, exec_dmFeed_main w hidle, rfl, rfl, rfl, rfl, rfl, rfl, ?taps, ?trigger, ?unused⟩
  case taps =>
    intro k hk
    have hpos : 4 + (7 - k) = 11 - k := by omega
    calc (feed w s).mat.out.getLsbD (7 - k)
      _ = w.getLsbD (11 - k) := by rw [← hpos]; exact out_feed_taps s.mat w (by omega)
      _ = decide (w &&& ((0x0800 >>> k : ℕ) : Word) ≠ 0) := by
        rw [tapMask_eq_twoPow k hk, decide_and_twoPow_ne_zero w (by omega)]
  case trigger =>
    calc trigger (feed w s)
      _ = signature (w.extractLsb' 0 9) s.mat.hist0 s.mat.hist1 := trigger_feed w s
      _ = decide (w.extractLsb' 0 9 = 0x100 ∧ s.mat.hist0 = 0x017 ∧ s.mat.hist1 = 0x072) := by
        simp [signature, Bool.decide_and, Bool.and_assoc, beq_eq_decide]
  case unused => exact fun k hk => out_feed_unused s.mat w hk

end Sys2Proof.Demux

/-! PROOFS. The family of spec/44_frame.md: the frame reads FB.RDW, FB.LEN and FB.CK of an idle MAIN on a built table (R362, R366 to
R368). -/

namespace Sys2Proof.FrameBuilder

open Sys2Proof.Machine Sys2Proof.Safety Sys2Proof.FifoCommands

/-! ### What an entry of a built table holds (R361 to R364) -/

/-- The count of R364 is the number of core words of R361 and R363. -/
theorem length_coreWords (g : Cfg) (idx : Nat) : (coreWords g idx).length = coreCount idx := by
  unfold coreWords coreCount
  split
  · rfl
  · split <;> rfl

/-- The checksum's high wire word is its high byte. -/
theorem setWidth_extractLsb'_high (x : Word) : (x.extractLsb' 8 8).setWidth 16 = x >>> 8 := by
  ext i hi
  by_cases hlow : i < 8
  · simp [hlow]
  · simp [hlow, BitVec.getLsbD_of_ge x (8 + i) (by omega)]

/-- The checksum's low wire word is its low byte. -/
theorem setWidth_extractLsb'_low (x : Word) : (x.extractLsb' 0 8).setWidth 16 = x &&& 0x00FF := by
  have hmask : x.toNat &&& 255 = x.toNat % 256 := Nat.and_two_pow_sub_one_eq_mod x.toNat 8
  have hbyte : x.toNat % 256 < 65536 := by omega
  apply BitVec.eq_of_toNat_eq
  simp [hmask, Nat.mod_eq_of_lt hbyte]

/-- A wire word of an entry that holds a frame: a core word, then the checksum's high and low bytes (R362). -/
theorem frameRead_of_entry {s : State} {idx : Nat} {ws : List Word} {ck : Word} (p : Nat) (hlen : ws.length = coreCount idx)
    (hcore : (entryAt s idx).core.take (coreCount idx) = ws) (hck : (entryAt s idx).ck = ck) :
    frameRead s idx p =
      if p < ws.length then ws.getD p 0 else if p = ws.length then ck >>> 8 else ck &&& 0x00FF := by
  rw [frameRead, setWidth_extractLsb'_high, setWidth_extractLsb'_low, hck, hlen]
  split
  · next hp => simp [← hcore, List.getD_eq_getElem?_getD, List.getElem?_take_of_lt hp]
  · rfl

/-! ### The frame reads of an idle MAIN (R366 to R368) -/

/-- On a built table a frame read in range has no fault. -/
theorem frameFault_built {s : State} {inRange : Bool} (hbuilt : s.built = true) (hin : inRange = true) :
    frameFault s inRange = none := by
  simp [frameFault, hbuilt, hin]

/-- An answer of an idle MAIN's command changes RESULT only (R159). -/
theorem done_some_mainIdle {s : State} (i : Instr) (v : Word) (hidle : MainIdle s) :
    done i (some v) s = .next { s with result := v } :=
  congrArg Host.Outcome.next (complete_mainIdle i (some v) hidle)

section BuiltTable

variable {s : State} {idx : BitVec 9} (hidle : MainIdle s) (hbuilt : s.built = true) (hidx : idx.toNat < s.cfg.maxSlots + 3)
include hidle hbuilt hidx

/-- FB.RDW in range answers the wire word (R366). -/
theorem exec_fbRdw_built {wire : BitVec 4} (hwire : wire.toNat < coreCount idx.toNat + 2) :
    exec (.fbRdw idx wire) s = .next { s with result := frameRead s idx.toNat wire.toNat } := by
  rw [← done_some_mainIdle (.fbRdw idx wire) _ hidle]
  simp [exec, execFbRdw, frameFault_built hbuilt ((wireOk_iff s idx wire).2 ⟨hidx, hwire⟩)]

/-- FB.LEN in range answers the entry's count (R367). -/
theorem exec_fbLen_built :
    exec (.fbLen idx) s = .next { s with result := (entryAt s idx.toNat).count.setWidth 16 } := by
  rw [← done_some_mainIdle (.fbLen idx) _ hidle]
  simp [exec, execFbLen, frameFault_built hbuilt ((indexOk_iff s idx).2 hidx)]

/-- FB.CK in range answers the entry's checksum (R368). -/
theorem exec_fbCk_built : exec (.fbCk idx) s = .next { s with result := (entryAt s idx.toNat).ck } := by
  rw [← done_some_mainIdle (.fbCk idx) _ hidle]
  simp [exec, execFbCk, frameFault_built hbuilt ((indexOk_iff s idx).2 hidx)]

end BuiltTable

/-- Settles O36: in range and built, each read answers a part of the entry, and the invariant says what the entry holds. -/
theorem frameReadsAnswerTheFrame : Obligations.FrameReadsAnswerTheFrame := by
  intro s idx hidle hinv hbuilt hidx
  obtain ⟨hcount, hcore, hck⟩ := hinv.content hbuilt idx.toNat hidx
  have hlen := length_coreWords s.cfg idx.toNat
  refine ⟨fun wire hwire => ?rdw, ?len, ?ck⟩
  case rdw =>
    rw [exec_fbRdw_built hidle hbuilt hidx (hlen ▸ hwire), frameRead_of_entry wire.toNat hlen hcore hck]
  case len =>
    have hanswer : (entryAt s idx.toNat).count.setWidth 16 = if idx = 0 then (5 : Word) else 4 := by
      apply BitVec.eq_of_toNat_eq
      rw [BitVec.toNat_setWidth, hcount, coreCount_of_index]
      split <;> rfl
    rw [exec_fbLen_built hidle hbuilt hidx, hanswer]
  case ck => rw [exec_fbCk_built hidle hbuilt hidx, hck]

end Sys2Proof.FrameBuilder

/-! PROOFS. The family of spec/60_exceptions.md: what is pending at each level (R457, R458), the interrupt entries (R460, R461, R465),
and the return of the high-priority handler (R462, R472). -/

namespace Sys2Proof.Interrupts

open Sys2Proof.Machine

/-! ### The sources and where they are routed (R457, R458) -/

theorem irqRx_iff (ch : Chan) (s : State) :
    irqRx ch s = true ↔ (s.chan ch).ctrl.rxie = true ∧ (s.chan ch).ctrl.en = true ∧ (s.chan ch).rxb ≠ [] := by
  simp [irqRx, State.ctrl, Channel.rxav, and_assoc]

theorem irqTx_iff (ch : Chan) (s : State) :
    irqTx ch s = true ↔ (s.chan ch).ctrl.txie = true ∧ (s.chan ch).ctrl.txen = true ∧ (s.chan ch).thr.full = false := by
  simp [irqTx, State.ctrl, Channel.txbf, and_assoc]

theorem irqTick_iff (s : State) : irqTick s = true ↔ s.intctl.tmrie = true ∧ s.intctl.tickf = true := by
  simp [irqTick]

/-- The routing bits RXIP and TXIP read as they are stored: R35 hardwires DE alone. -/
theorem chanToHp_iff (ch : Chan) (s : State) :
    chanToHp ch s = true ↔ s.cfg.present ch = true ∧
      ((irqRx ch s = true ∧ (s.chan ch).ctrl.rxip = true) ∨ (irqTx ch s = true ∧ (s.chan ch).ctrl.txip = true)) := by
  simp [chanToHp, State.ctrl]

theorem chanToLp_iff (ch : Chan) (s : State) :
    chanToLp ch s = true ↔ s.cfg.present ch = true ∧
      ((irqRx ch s = true ∧ (s.chan ch).ctrl.rxip = false) ∨ (irqTx ch s = true ∧ (s.chan ch).ctrl.txip = false)) := by
  simp [chanToLp, State.ctrl]

theorem exists_chan_iff {p : Chan → Prop} : (∃ ch, p ch) ↔ p .ch0 ∨ p .ch1 := by
  constructor
  · rintro ⟨ch, h⟩
    cases ch with
    | ch0 => exact .inl h
    | ch1 => exact .inr h
  · rintro (h | h)
    · exact ⟨.ch0, h⟩
    · exact ⟨.ch1, h⟩

theorem hpPend_iff (s : State) : hpPend s = true ↔ ∃ ch, chanToHp ch s = true := by
  rw [exists_chan_iff, hpPend, Bool.or_eq_true]

/-- The tick has no routing bit: it is always pending at the low level (R458). -/
theorem lpPend_iff (s : State) : lpPend s = true ↔ irqTick s = true ∨ ∃ ch, chanToLp ch s = true := by
  rw [exists_chan_iff, lpPend, Bool.or_eq_true, Bool.or_eq_true, or_assoc]

/-- Settles O51: each level is the OR of its sources, and each source is its conditions and its routing bit. -/
theorem pendingSourcesAreRouted : Obligations.PendingSourcesAreRouted := by
  intro s
  constructor
  · simp only [hpPend_iff, chanToHp_iff, irqRx_iff, irqTx_iff, and_assoc]
  · simp only [lpPend_iff, irqTick_iff, chanToLp_iff, irqRx_iff, irqTx_iff, and_assoc]

/-! ### When an entry is enabled (R460) -/

theorem hpEntry_iff (s : State) :
    hpEntry s = true ↔ s.intctl.gieh = true ∧ s.intctl.inhp = false ∧ hpPend s = true := by
  simp [hpEntry, and_assoc]

theorem lpEntry_iff (s : State) :
    lpEntry s = true ↔ s.intctl.gieh = true ∧ s.intctl.giel = true ∧ s.intctl.inlp = false ∧ s.intctl.inhp = false ∧
      lpPend s = true ∧ hpEntry s = false := by
  simp [lpEntry, and_assoc]

theorem hpEntry_eq_false_of_inhp {s : State} (h : s.intctl.inhp = true) : hpEntry s = false := by
  simp [hpEntry, h]

theorem lpEntry_eq_false_of_inhp {s : State} (h : s.intctl.inhp = true) : lpEntry s = false := by
  simp [lpEntry, h]

theorem hpEntry_eq_false_of_hpPend {s : State} (h : hpPend s = false) : hpEntry s = false := by
  simp [hpEntry, h]

/-! ### The processor's step (R459, R460, R465) -/

/-- With the processor next, the step is the processor's, on the state without that choice. -/
theorem step_processor {s : State} {cs : List Choice} (hcfg : s.cfg.ok = true) (hsched : s.sched = .proc :: cs) :
    step s = processorStep { s with sched := cs } := by
  simp [step, hcfg, takeChoice_cons hsched, agentStep]

theorem processorStep_hpEntry {s : State} (hhp : hpEntry s = true) : processorStep s = .next (enterHp s) := by
  simp [processorStep, hhp]

theorem processorStep_lpEntry {s : State} (hhp : hpEntry s = false) (hlp : lpEntry s = true) :
    processorStep s = .next (enterLp s) := by
  simp [processorStep, hhp, hlp]

/-- While the high-priority handler is active no entry is enabled, so the handler takes the step (R460). -/
theorem processorStep_inhp {s : State} (h : s.intctl.inhp = true) : processorStep s = contextStep s := by
  simp [processorStep, hpEntry_eq_false_of_inhp h, lpEntry_eq_false_of_inhp h]

/-- The high-priority handler at its start has no command to run: it returns (R462, R472). -/
theorem contextStep_hpStart {s : State} (h : s.intctl.inhp = true) (hpos : s.posHp = .hpStart) :
    contextStep s = .next (leave .hp s) := by
  have hactive : active s = .hp := (active_hp_iff s).2 h
  have hpos' : s.pos .hp = .hpStart := hpos
  simp [contextStep, hactive, hpos']

/-- Settles O52: the choice that is taken bears on no entry's condition, and the processor tries HP entry first, then LP entry. -/
theorem interruptEntryComesFirst : Obligations.InterruptEntryComesFirst := by
  intro s cs hcfg hsched hgieh hinhp
  rw [step_processor hcfg hsched]
  constructor
  · intro hpend
    have hhp : hpEntry { s with sched := cs } = true := (hpEntry_iff _).2 ⟨hgieh, hinhp, hpend⟩
    exact processorStep_hpEntry hhp
  · intro hnone hpend hgiel hinlp
    have hhp : hpEntry { s with sched := cs } = false := hpEntry_eq_false_of_hpPend hnone
    have hlp : lpEntry { s with sched := cs } = true := (lpEntry_iff _).2 ⟨hgieh, hgiel, hinlp, hinhp, hpend, hhp⟩
    exact processorStep_lpEntry hhp hlp

/-- Settles O53: with INHP set no entry comes before the handler's step, and that step is its return. -/
theorem hpHandlerReturnsAtOnce : Obligations.HpHandlerReturnsAtOnce := by
  intro s cs hcfg hsched hinhp hpos
  let t : State := { s with sched := cs }
  calc step s = processorStep t := step_processor hcfg hsched
    _ = contextStep t := processorStep_inhp hinhp
    _ = .next (leave .hp t) := contextStep_hpStart hinhp hpos

end Sys2Proof.Interrupts

/-! PROOFS. The family of spec/70_reset_and_hazards.md: the values after reset (R500). -/

namespace Sys2Proof.Reset

open Sys2Proof.Machine

/-! ### The parts of the reset state by name

Each holds of every queue, channel and context, and of every configuration. -/

@[simp] theorem resetWith_pos (g : Cfg) (x : Ctx) : (State.resetWith g).pos x = .none := by
  cases x <;> rfl

@[simp] theorem resetWith_fifo (g : Cfg) (q : Queue) : (State.resetWith g).fifo q = .reset := by
  cases q <;> rfl

@[simp] theorem resetWith_chan (g : Cfg) (ch : Chan) : (State.resetWith g).chan ch = .reset := by
  cases ch <;> rfl

/-- CTRL reads as it is stored, with or without direction control: DE is 0 at reset (R35). -/
@[simp] theorem resetWith_ctrl (g : Cfg) (ch : Chan) : (State.resetWith g).ctrl ch = Channel.reset.ctrl := by
  rw [State.ctrl, resetWith_chan]
  rfl

/-! ### The register words at reset -/

theorem ctrl_toWord_reset : Channel.reset.ctrl.toWord = 0x0000 := by decide

/-- The empty transmitter shows at once: TXBF and TSRE are the two bits of STAT that are set (R36). -/
theorem stat_reset : Channel.reset.stat = 0x0006 := by decide

theorem intctl_toWord_resetWith (g : Cfg) : (State.resetWith g).intctl.toWord = 0x0000 := by
  change Intctl.toWord ⟨false, false, false, false, false, false, false⟩ = 0x0000
  decide

theorem err_toWord_resetWith (g : Cfg) : (State.resetWith g).err.toWord = 0x0000 := by
  change ErrReg.toWord ⟨0, false⟩ = 0x0000
  decide

/-- Settles O58, part by part: the positions, the queues, the channels, then the registers that are one field of the state. -/
theorem resetLeavesTheStatedValues : Obligations.ResetLeavesTheStatedValues := by
  intro g
  refine ⟨resetWith_pos g, fun q => ?queue, fun ch => ?channel, rfl, rfl, rfl, intctl_toWord_resetWith g,
    err_toWord_resetWith g, rfl⟩
  case queue =>
    rw [resetWith_fifo]
    exact ⟨rfl, rfl⟩
  case channel =>
    rw [resetWith_ctrl, resetWith_chan]
    exact ⟨ctrl_toWord_reset, stat_reset, rfl, rfl, rfl, rfl, rfl, rfl, rfl⟩

end Sys2Proof.Reset

/-! PROOFS. Decode and encode (R148 to R155): a word is its four fields, a must-be-zero mask is a mask on each field, and a field that
meets its mask is the field of the command it decodes to. -/

namespace Sys2Proof.DecodeEncode

open Sys2Proof.Encoding

/-! ### A word and its fields (R148, R149) -/

theorem packFields_fields (c : Command) : packFields (fieldOp c) (fieldSel c) (fieldFlg c) (fieldImm c) = c := by
  apply BitVec.eq_of_getLsbD_eq
  intro i hi
  rw [packFields_getLsbD]
  simp only [fieldOp, fieldSel, fieldFlg, fieldImm, BitVec.getLsbD_extractLsb']
  split
  · next h => simp [h]
  · split
    · next h h' => simp [show i - 16 < 4 by omega, show 16 + (i - 16) = i by omega]
    · split
      · next h h' h'' => simp [show i - 20 < 4 by omega, show 20 + (i - 20) = i by omega]
      · next h h' h'' => simp [show i - 24 < 8 by omega, show 24 + (i - 24) = i by omega]

/-- A word with the four fields of a command's word is that word. -/
theorem encode_eq_of_fields {i : Instr} {c : Command} (hop : opcodeByte i = fieldOp c) (hsel : selField i = fieldSel c)
    (hflg : flgField i = fieldFlg c) (himm : immField i = fieldImm c) : encode i = c := by
  rw [encode, hop, hsel, hflg, himm, packFields_fields]

theorem packFields_and (op op' : Byte) (sel sel' flg flg' : BitVec 4) (imm imm' : Word) :
    packFields op sel flg imm &&& packFields op' sel' flg' imm' =
      packFields (op &&& op') (sel &&& sel') (flg &&& flg') (imm &&& imm') := by
  apply BitVec.eq_of_getLsbD_eq
  intro i hi
  simp only [BitVec.getLsbD_and, packFields_getLsbD]
  split_ifs <;> rfl

theorem packFields_eq_zero_iff (op : Byte) (sel flg : BitVec 4) (imm : Word) :
    packFields op sel flg imm = 0 ↔ op = 0 ∧ sel = 0 ∧ flg = 0 ∧ imm = 0 := by
  constructor
  · intro h
    refine ⟨?_, ?_, ?_, ?_⟩
    · rw [← fieldOp_packFields op sel flg imm, h]; rfl
    · rw [← fieldSel_packFields op sel flg imm, h]; rfl
    · rw [← fieldFlg_packFields op sel flg imm, h]; rfl
    · rw [← fieldImm_packFields op sel flg imm, h]; rfl
  · rintro ⟨rfl, rfl, rfl, rfl⟩
    rfl

/-- A word meets a must-be-zero mask when each of its fields meets the mask's field (R153). -/
theorem and_packFields_eq_zero_iff (c : Command) (sel flg : BitVec 4) (imm : Word) :
    c &&& packFields 0 sel flg imm = 0 ↔ fieldSel c &&& sel = 0 ∧ fieldFlg c &&& flg = 0 ∧ fieldImm c &&& imm = 0 := by
  conv_lhs => rw [← packFields_fields c, packFields_and, packFields_eq_zero_iff]
  simp

/-- The must-be-zero bits of a command's row, field by field: SEL, FLG, IMM (R150). -/
def mbzFields : Instr → BitVec 4 × BitVec 4 × Word
  | .fqInit _ => (0xE, 0xF, 0xFFFF)
  | .fqEnq _ _ => (0xE, 0xF, 0)
  | .fqDeq _ => (0xE, 0xF, 0xFFFF)
  | .fqEmpty _ => (0xE, 0xF, 0xFFFF)
  | .fqFull _ => (0xE, 0xF, 0xFFFF)
  | .uInit _ _ _ _ => (0xE, 0xC, 0)
  | .uTxw _ _ => (0xE, 0xF, 0)
  | .uRxav _ => (0xE, 0xF, 0xFFFF)
  | .uRxw _ => (0xE, 0xF, 0xFFFF)
  | .uTxrdy _ => (0xE, 0xF, 0xFFFF)
  | .dmFeed _ => (0xF, 0xF, 0)
  | .fbBuild => (0xF, 0xF, 0xFFFF)
  | .fbRdw _ _ => (0, 0xF, 0xFE00)
  | .fbLen _ => (0xF, 0xF, 0xFE00)
  | .fbCk _ => (0xF, 0xF, 0xFE00)
  | .fbEnq _ => (0xF, 0xF, 0xFE00)
  | .ckInit => (0xF, 0xF, 0xFFFF)
  | .ckUpd _ => (0xF, 0xF, 0)
  | .ckRd => (0xF, 0xF, 0xFFFF)
  | .dspPoll => (0xF, 0xF, 0xFFFF)
  | .regRd _ => (0, 0, 0xFFFF)
  | .regWr _ _ => (0, 0, 0)

/-- The decoder's mask of a command's row is made of those fields. -/
theorem mbzMask_opcodeByte (i : Instr) :
    mbzMask (opcodeByte i) = some (packFields 0 (mbzFields i).1 (mbzFields i).2.1 (mbzFields i).2.2) := by
  cases i
  all_goals
    simp only [opcodeByte, mbzFields]
    decide

/-- A word meets the mask of a command's row. -/
def MeetsMask (i : Instr) (c : Command) : Prop :=
  fieldSel c &&& (mbzFields i).1 = 0 ∧ fieldFlg c &&& (mbzFields i).2.1 = 0 ∧ fieldImm c &&& (mbzFields i).2.2 = 0

/-- The operands of a word name a command of the word's row. -/
theorem opcodeByte_of_operandsOf {c : Command} {i : Instr} (h : operandsOf c = some i) : opcodeByte i = fieldOp c := by
  apply BitVec.eq_of_toNat_eq
  unfold operandsOf at h
  split at h <;> cases h
  all_goals simp [opcodeByte, *]

/-- A word decodes to a command when its operands are that command's and it meets the mask of that row (R153, R154). -/
theorem decode_eq_ok_iff {c : Command} {i : Instr} : decode c = .ok i ↔ operandsOf c = some i ∧ MeetsMask i c := by
  constructor
  · intro h
    unfold decode at h
    split at h
    · next m j hm hj =>
      split at h
      · next hz =>
        cases h
        rw [← opcodeByte_of_operandsOf hj, mbzMask_opcodeByte] at hm
        cases hm
        exact ⟨hj, (and_packFields_eq_zero_iff c _ _ _).1 hz⟩
      · cases h
    · cases h
  · rintro ⟨hops, hmask⟩
    have hm := mbzMask_opcodeByte i
    rw [opcodeByte_of_operandsOf hops] at hm
    have hz := (and_packFields_eq_zero_iff c _ _ _).2 hmask
    simp only [decode, hm, hops, hz, if_true]

/-! ### From a command to its word and back -/

theorem fieldOp_encode (i : Instr) : fieldOp (encode i) = opcodeByte i := fieldOp_packFields _ _ _ _
theorem fieldSel_encode (i : Instr) : fieldSel (encode i) = selField i := fieldSel_packFields _ _ _ _
theorem fieldFlg_encode (i : Instr) : fieldFlg (encode i) = flgField i := fieldFlg_packFields _ _ _ _
theorem fieldImm_encode (i : Instr) : fieldImm (encode i) = immField i := fieldImm_packFields _ _ _ _

theorem selOfQueue_and (q : Queue) : selOfQueue q &&& 0xE = 0 := by cases q <;> rfl

theorem selOfChan_and (ch : Chan) : selOfChan ch &&& 0xE = 0 := by cases ch <;> rfl

theorem flags_and (a b : Bool) : (0#2 ++ BitVec.ofBool a ++ BitVec.ofBool b : BitVec (2 + 1 + 1)) &&& 0xC = 0 := by
  cases a <;> cases b <;> rfl

theorem setWidth_index_and (idx : BitVec 9) : idx.setWidth 16 &&& (0xFE00 : Word) = 0 := by
  apply BitVec.eq_of_getLsbD_eq
  intro k hk
  have hmask : ∀ k < 9, (0xFE00 : Word).getLsbD k = false := by decide
  by_cases hlow : k < 9
  · rw [BitVec.getLsbD_and, hmask k hlow, Bool.and_false]
    exact BitVec.getLsbD_zero.symm
  · simp [BitVec.getLsbD_setWidth, BitVec.getLsbD_of_ge idx k (by omega)]

/-- A command's word has the command's operands. -/
theorem operandsOf_encode (i : Instr) : operandsOf (encode i) = some i := by
  have hop := fieldOp_encode i
  cases i
  case uInit ch nine intmode baud =>
    have hflags : ∀ a b, (0#2 ++ BitVec.ofBool a ++ BitVec.ofBool b : BitVec (2 + 1 + 1)).getLsbD 0 = b ∧
        (0#2 ++ BitVec.ofBool a ++ BitVec.ofBool b : BitVec (2 + 1 + 1)).getLsbD 1 = a := by decide
    simp only [operandsOf, hop, opcodeByte]
    simp [fieldSel_encode, fieldFlg_encode, fieldImm_encode, selField, flgField, immField]
    exact hflags intmode nine
  case regRd addr =>
    simp only [operandsOf, hop, opcodeByte]
    simp [encode, selField, flgField]
  case regWr addr value =>
    simp only [operandsOf, hop, opcodeByte]
    simp [encode, selField, flgField, immField]
  all_goals
    simp only [operandsOf, hop, opcodeByte]
    simp [fieldSel_encode, fieldImm_encode, selField, immField]

/-- A command's word has a 0 in every must-be-zero bit of its row. -/
theorem meetsMask_encode (i : Instr) : MeetsMask i (encode i) := by
  rw [MeetsMask, fieldSel_encode, fieldFlg_encode, fieldImm_encode]
  cases i
  all_goals
    simp only [mbzFields, selField, flgField, immField, selOfQueue_and, selOfChan_and, flags_and, setWidth_index_and]
    simp

theorem decode_encode (i : Instr) : decode (encode i) = .ok i :=
  decode_eq_ok_iff.2 ⟨operandsOf_encode i, meetsMask_encode i⟩

/-- A queue's selector is the selector of every word that names the queue. -/
theorem selOfQueue_queueOfSel : ∀ sel : BitVec 4, sel &&& 0xE = 0 → selOfQueue (queueOfSel sel) = sel := by decide

theorem selOfChan_chanOfSel : ∀ sel : BitVec 4, sel &&& 0xE = 0 → selOfChan (chanOfSel sel) = sel := by decide

theorem flags_of_flg : ∀ flg : BitVec 4, flg &&& 0xC = 0 →
    0#2 ++ BitVec.ofBool (flg.getLsbD 1) ++ BitVec.ofBool (flg.getLsbD 0) = flg := by decide

theorem and_F (x : BitVec 4) : x &&& 0xF = x := BitVec.and_allOnes

theorem and_FFFF (w : Word) : w &&& 0xFFFF = w := BitVec.and_allOnes

/-- A word without bits above bit 8 is its frame index (R150, format F). -/
theorem setWidth_indexOfImm (w : Word) (h : w &&& 0xFE00 = 0) : (indexOfImm w).setWidth 16 = w := by
  apply BitVec.eq_of_getLsbD_eq
  intro k hk
  have hmask : ∀ k < 16, 9 ≤ k → (0xFE00 : Word).getLsbD k = true := by decide
  have hbit : (w.getLsbD k && (0xFE00 : Word).getLsbD k) = false := by
    rw [← BitVec.getLsbD_and, h]
    exact BitVec.getLsbD_zero
  by_cases hlow : k < 9
  · simp [indexOfImm, hk, hlow]
  · rw [hmask k hk (by omega), Bool.and_true] at hbit
    simp [indexOfImm, hlow, hbit]

theorem fieldAddr_high (c : Command) : (fieldAddr c).extractLsb' 4 4 = fieldSel c := by
  ext k hk
  simp [fieldAddr, fieldSel, show 4 + k < 8 by omega, show 16 + (4 + k) = 20 + k by omega]

theorem fieldAddr_low (c : Command) : (fieldAddr c).extractLsb' 0 4 = fieldFlg c := by
  ext k hk
  simp [fieldAddr, fieldFlg, show k < 8 by omega]

theorem encode_of_decode {c : Command} {i : Instr} (h : decode c = .ok i) : encode i = c := by
  obtain ⟨hops, hsel, hflg, himm⟩ := decode_eq_ok_iff.1 h
  have hop := opcodeByte_of_operandsOf hops
  unfold operandsOf at hops
  split at hops <;> cases hops
  all_goals
    simp only [mbzFields] at hsel hflg himm
    apply encode_eq_of_fields hop
  all_goals
    simp_all only [selField, flgField, immField, selOfQueue_queueOfSel, selOfChan_chanOfSel, flags_of_flg, and_F,
      and_FFFF, setWidth_indexOfImm, fieldAddr_high, fieldAddr_low]

/-- Settles O1: a command's word has its operands and meets its row's mask; and each field that meets the mask is the field of the
command's word. -/
theorem decodeAndEncodeAgree : Obligations.DecodeAndEncodeAgree :=
  ⟨decode_encode, fun _ _ => encode_of_decode⟩

/-- Settles O3: each word is the word of the command it stands for. -/
theorem sampleWordsDecode : Obligations.SampleWordsDecode := by
  refine ⟨?_, ?_, ?_, ?_, ?_, ?_, ?_, ?_⟩
  · exact decode_encode (.fqEnq .rxq 0x1234)
  · exact decode_encode (.uInit .ch0 true false 19200)
  · exact decode_encode (.uTxw .ch1 0x100)
  · exact decode_encode (.dmFeed 0x072)
  · exact decode_encode (.fbRdw 1 5)
  · exact decode_encode (.ckUpd 0x1FF)
  · exact decode_encode .dspPoll
  · exact decode_encode (.regWr 0x11 0x1FF)

/-! ### The rows of the opcode map by match and mask (R151, R154) -/

/-- The strict match and mask of a row say that the must-be-zero bits are 0, once the opcode is the row's (R154). -/
theorem and_strictMask_eq_iff {c m : Command} (hm : m &&& (0xFF000000 : Command) = 0) :
    c &&& ((0xFF000000 : Command) ||| m) = (fieldOp c).setWidth 32 <<< 24 ↔ c &&& m = 0 := by
  have hop : c &&& (0xFF000000 : Command) = (fieldOp c).setWidth 32 <<< 24 := by
    have hhigh : ∀ k < 32, (0xFF000000 : Command).getLsbD k = decide (24 ≤ k) := by decide
    apply BitVec.eq_of_getLsbD_eq
    intro k hk
    rw [BitVec.getLsbD_and, hhigh k hk]
    by_cases hbit : k < 24
    · simp [hbit, Nat.not_le.2 hbit]
    · simp [fieldOp, hk, hbit, Nat.not_lt.1 hbit, show k - 24 < 8 by omega]
  constructor
  · intro h
    have hz : (c &&& m) &&& ((fieldOp c).setWidth 32 <<< 24) = 0 := by
      rw [← hop, BitVec.and_assoc, ← BitVec.and_assoc m, BitVec.and_comm m c, BitVec.and_assoc c m, hm]
      simp
    calc c &&& m = (c &&& m) &&& (c &&& ((0xFF000000 : Command) ||| m)) := by
          ext k hk
          simp
          grind
      _ = 0 := by rw [h, hz]
  · intro h
    rw [BitVec.and_or_distrib_left, hop, h]
    simp

/-- Settles O2: the rows are those of the opcode map with the opcode byte added to the mask, and a word of a row decodes exactly when
its must-be-zero bits are 0. -/
theorem rowsDecodeByMatchAndMask : Obligations.RowsDecodeByMatchAndMask := by
  intro row hrow c hop
  have hrows : ∀ r ∈ opcodeMap.map fun p => (p.1, (0xFF000000 : Command) ||| p.2), ∃ m, (r.1, m) ∈ opcodeMap ∧
      m &&& (0xFF000000 : Command) = 0 ∧ r.2 = (0xFF000000 : Command) ||| m := by
    intro r hr
    obtain ⟨p, hp, rfl⟩ := List.mem_map.1 hr
    exact ⟨p.2, hp, (show ∀ p ∈ opcodeMap, p.2 &&& (0xFF000000 : Command) = 0 by simp [opcodeMap]) p hp, rfl⟩
  obtain ⟨m, hmap, hm, hmask⟩ := hrows row hrow
  have hfield : fieldOp c = row.1 := hop
  have hiff := and_strictMask_eq_iff (c := c) hm
  rw [hmask, ← hfield]
  rw [← hfield] at hmap
  constructor
  · intro hmatch
    have hz := hiff.1 hmatch
    obtain ⟨i, hi⟩ := operandsOf_of_mbzMask (mbzMask_eq_some_iff.2 hmap)
    have hdec : decode c = .ok i := by simp only [decode, mbzMask_eq_some_iff.2 hmap, hi, hz, if_true]
    exact ⟨i, hdec, opcodeByte_of_operandsOf hi⟩
  · exact fun hbit => decode_mbz_violated hmap rfl (mt hiff.2 hbit)

end Sys2Proof.DecodeEncode

/-! PROOFS. What a step can do, said once. A command's step raises its fault, or takes its effect and ends, goes on or waits, or names
a slot that does not exist; a step of the block is a hardware step, an interrupt entry, a return, or a step of a command. -/

namespace Sys2Proof.StepCases

open Sys2Proof.Machine Sys2Proof.Safety

/-! ### What a step of a command can do (R14, R31, R451) -/

/-- How the step of a command leaves the context, once it raises no fault. -/
inductive Ending where
  /-- The command ends, with a result or without (R159). -/
  | ends (res : Option Word)
  /-- The command goes on at a label (R31). -/
  | goesOn (m : Micro)
  /-- The command goes on inside its transaction, where POS does not change (R45, R243). -/
  | stays

def Ending.apply (i : Instr) : Ending → State → State
  | .ends res => complete i res
  | .goesOn m => goOn i m
  | .stays => id

/-- The commands that answer a value in one step and do nothing else (R248, R251, R334, R366 to R368, R401). -/
def OnlyAnswers : Instr → Prop
  | .uRxav _ | .uTxrdy _ | .fbRdw _ _ | .fbLen _ | .fbCk _ | .ckRd | .regRd _ => True
  | _ => False

/-- How FQ.ENQ goes on after a microstep (R202). -/
def enqEnding : EnqNext → Ending
  | .over => .ends none
  | .more a => .goesOn (.enq a)

/-- The wire position and the microstep FB.ENQ stands at (R369). -/
def fbEnqAt : Micro → Nat × EnqAt
  | .fbEnq p a => (p, a)
  | _ => (0, .s1)

/-- How FB.ENQ goes on after a microstep of the enqueue of wire word `p` (R369). -/
def fbEnqEnding (idx : BitVec 9) (p : Nat) : EnqNext → Ending
  | .more a => .goesOn (.fbEnq p a)
  | .over => if p < coreCount idx.toNat + 1 then .goesOn (.fbEnq (p + 1) .s1) else .ends none

/-- A FIFO microstep of the active context names a slot that R100 says does not exist (log 10). -/
def SlotMissing (i : Instr) (s : State) : Prop :=
  match i with
  | .fqEnq _ _ => ∃ ww x, microOf s = .enq (.s2 ww x) ∧ ¬ww < s.cfg.capacity
  | .fqDeq _ => ∃ rr, microOf s = .deqS2 rr ∧ ¬rr < s.cfg.capacity
  | .fbEnq _ => ∃ p ww x, microOf s = .fbEnq p (.s2 ww x) ∧ ¬ww < s.cfg.capacity
  | _ => False

/-- The fault a command's step raises, if it raises one (R153, R206, R241, R243, R366 to R369, R402, in the order of R456). -/
def faultOf (i : Instr) (s : State) : Option FaultCode :=
  match i with
  | .fqEnq q _ => if active s ≠ s.cfg.prod q then some .spscViolation else none
  | .fqDeq q =>
    if active s ≠ s.cfg.cons q then some .spscViolation
    else
      match microOf s with
      | .deqS2 _ => none
      | .deqS3 _ _ => none
      | _ => if (s.fifo q).r = (s.fifo q).w then some .fifoUnderflow else none
  | .uInit ch _ _ baud =>
    if s.cfg.present ch then
      if divisor s.cfg baud = none then some .badBaud else if (s.chan ch).busy then some .seqBusy else none
    else some .noChannel
  | .uTxw ch _ =>
    if microOf s = .inSeq then none
    else if s.cfg.present ch then if (s.chan ch).busy then some .seqBusy else none
    else some .noChannel
  | .uRxav ch | .uRxw ch | .uTxrdy ch => if s.cfg.present ch then none else some .noChannel
  | .fbRdw idx wire => frameFault s (wireOk s idx wire)
  | .fbLen idx | .fbCk idx => frameFault s (indexOk s idx)
  | .fbEnq idx =>
    match microOf s with
    | .fbEnq _ _ => none
    | _ => fbEnqFault s idx
  | .regRd addr => if regAt s.cfg addr = none then some .regAddr else none
  | .regWr addr _ =>
    match regAt s.cfg addr with
    | none => some .regAddr
    | some r => if writable r then none else some .regRo
  | _ => none

/-- The effect of one step of a command that raises no fault, and how the command goes on: one constructor for each line of the
command's rule. -/
inductive Takes : Instr → State → State → Ending → Prop
  | fqInit {s : State} {q : Queue} :
    Takes (.fqInit q) s (s.setFifo q { s.fifo q with r := 0, w := 0 }) (.ends none)
  | fqEnq {s t : State} {q : Queue} {v : Word} {n : EnqNext} (hrole : active s = s.cfg.prod q)
      (hstep : enqStep q v (enqAt (microOf s)) s = some (t, n)) : Takes (.fqEnq q v) s t (enqEnding n)
  | fqDeqLoad {s : State} {q : Queue} (hrole : active s = s.cfg.cons q) (hne : (s.fifo q).r ≠ (s.fifo q).w) :
    Takes (.fqDeq q) s s (.goesOn (.deqS2 (s.fifo q).r))
  | fqDeqRead {s : State} {q : Queue} {rr : Nat} (hrole : active s = s.cfg.cons q) (hm : microOf s = .deqS2 rr) :
    Takes (.fqDeq q) s s (.goesOn (.deqS3 rr ((s.fifo q).slot.read rr)))
  | fqDeqTake {s : State} {q : Queue} {rr : Nat} {v : Word} (hrole : active s = s.cfg.cons q)
      (hm : microOf s = .deqS3 rr v) :
    Takes (.fqDeq q) s (s.setFifo q { s.fifo q with r := nextIndex s.cfg rr }) (.ends (some v))
  | fqEmptyLoad {s : State} {q : Queue} : Takes (.fqEmpty q) s s (.goesOn (.queryS2 (s.fifo q).r))
  | fqEmptyAnswer {s : State} {q : Queue} {a : Nat} (hm : microOf s = .queryS2 a) :
    Takes (.fqEmpty q) s s (.ends (some (boolWord (a == (s.fifo q).w))))
  | fqFullLoad {s : State} {q : Queue} : Takes (.fqFull q) s s (.goesOn (.queryS2 (s.fifo q).r))
  | fqFullAnswer {s : State} {q : Queue} {a : Nat} (hm : microOf s = .queryS2 a) :
    Takes (.fqFull q) s s (.ends (some (boolWord (nextIndex s.cfg (s.fifo q).w == a))))
  | uInit {s : State} {ch : Chan} {nine intmode : Bool} {baud d : Word} (hd : divisor s.cfg baud = some d)
      (hidle : (s.chan ch).busy = false) :
    Takes (.uInit ch nine intmode baud) s (writeCtrl ch (initCtrl s.cfg nine intmode (s.ctrl ch)) (setBrg ch d s)) (.ends none)
  | uTxwBegin {s : State} {ch : Chan} {w : Word} (hm : microOf s ≠ .inSeq) (hidle : (s.chan ch).busy = false) :
    Takes (.uTxw ch w) s (txwBegin ch w s) (.goesOn .inSeq)
  | uTxwWait {s : State} {ch : Chan} {w : Word} (hm : microOf s = .inSeq) (hwait : txwPhase ch s = none) :
    Takes (.uTxw ch w) s s .stays
  | uTxwPhase {s t : State} {ch : Chan} {w : Word} (hm : microOf s = .inSeq) (hphase : txwPhase ch s = some t)
      (hbusy : (t.chan ch).busy = true) : Takes (.uTxw ch w) s t .stays
  | uTxwEnd {s t : State} {ch : Chan} {w : Word} (hm : microOf s = .inSeq) (hphase : txwPhase ch s = some t)
      (hidle : (t.chan ch).busy = false) : Takes (.uTxw ch w) s t (.ends none)
  | answers {s : State} {i : Instr} {v : Word} (hi : OnlyAnswers i) : Takes i s s (.ends (some v))
  | uRxw {s : State} {ch : Chan} : Takes (.uRxw ch) s (receiveWord ch s).2 (.ends (some (receiveWord ch s).1))
  | dmFeed {s : State} {w : Word} : Takes (.dmFeed w) s (feed w s) (.ends none)
  | fbBuild {s : State} : Takes .fbBuild s { s with table := buildTable s, built := true } (.ends none)
  | fbEnq {s t : State} {idx : BitVec 9} {n : EnqNext}
      (hrole : (∃ p a, microOf s = .fbEnq p a) ∨ active s = s.cfg.prod .txq)
      (hstep : enqStep .txq (frameRead s idx.toNat (fbEnqAt (microOf s)).1) (fbEnqAt (microOf s)).2 s = some (t, n)) :
    Takes (.fbEnq idx) s t (fbEnqEnding idx (fbEnqAt (microOf s)).1 n)
  | ckInit {s : State} : Takes .ckInit s { s with ckAcc := s.cfg.crcInit } (.ends none)
  | ckUpd {s : State} {w : Word} : Takes (.ckUpd w) s { s with ckAcc := crcStep s.cfg s.ckAcc w } (.ends none)
  | dspPollNoData {s : State} : Takes .dspPoll s s (.ends (some (noData s.cfg)))
  | dspPollAsk {s : State} : Takes .dspPoll s s (.goesOn .pollS2)
  | dspPollReceive {s : State} :
    Takes .dspPoll s (receiveWord s.cfg.rxCh s).2 (.goesOn (.pollS3 (receiveWord s.cfg.rxCh s).1))
  | dspPollFaulty {s : State} :
    Takes .dspPoll s (receiveWord s.cfg.rxCh s).2 (.ends (some (receiveWord s.cfg.rxCh s).1))
  | dspPollFeed {s : State} {w : Word} (hm : microOf s = .pollS3 w) : Takes .dspPoll s (feed w s) (.ends (some w))
  | regWr {s : State} {addr : Byte} {v : Word} {r : Reg} (hreg : regAt s.cfg addr = some r) (hw : writable r = true) :
    Takes (.regWr addr v) s (writeReg s v r) (.ends none)

/-- The three outcomes of a step of a command. -/
inductive ExecOutcome (i : Instr) (s : State) : Out → Prop
  | faults {k : FaultCode} (hfault : faultOf i s = some k) : ExecOutcome i s (raised k s)
  | takes {t : State} {e : Ending} (hfault : faultOf i s = none) (htakes : Takes i s t e) :
    ExecOutcome i s (.next (e.apply i t))
  | stops (hfault : faultOf i s = none) (hslot : SlotMissing i s) : ExecOutcome i s (.fault .slotRange)

/-! ### The outcome of each command -/

/-- An enqueue's microstep has no answer only when it writes a slot that does not exist. -/
theorem enqStep_eq_none {q : Queue} {v : Word} {a : EnqAt} {s : State} (h : enqStep q v a s = none) :
    ∃ ww x, a = .s2 ww x ∧ ¬ww < s.cfg.capacity := by
  cases a with
  | s1 =>
    simp only [enqStep] at h
    split at h <;> cases h
  | s2 ww x =>
    refine ⟨ww, x, rfl, fun hlt => ?_⟩
    simp [enqStep, hlt] at h
  | s3 ww => cases h

theorem eq_enq_of_enqAt {m : Micro} (h : enqAt m ≠ .s1) : m = .enq (enqAt m) := by
  cases m with
  | enq a => rfl
  | _ => exact absurd rfl h

theorem eq_fbEnq_of_fbEnqAt {m : Micro} (h : (fbEnqAt m).2 ≠ .s1) : m = .fbEnq (fbEnqAt m).1 (fbEnqAt m).2 := by
  cases m with
  | fbEnq p a => rfl
  | _ => exact absurd rfl h

theorem fqEnq_outcome (q : Queue) (v : Word) (s : State) : ExecOutcome (.fqEnq q v) s (execFqEnq q v s) := by
  unfold execFqEnq
  split
  · next hrole => exact .faults (by simp [faultOf, hrole])
  · next hrole =>
    have hfault : faultOf (.fqEnq q v) s = none := by simp [faultOf, hrole]
    rw [not_not] at hrole
    split
    · next t hstep => exact .takes hfault (.fqEnq hrole hstep)
    · next t a hstep => exact .takes hfault (.fqEnq hrole hstep)
    · next hstep =>
      obtain ⟨ww, x, ha, hww⟩ := enqStep_eq_none hstep
      have hm := eq_enq_of_enqAt (m := microOf s) (ha ▸ nofun)
      exact .stops hfault ⟨ww, x, ha ▸ hm, hww⟩

theorem fqDeq_outcome (q : Queue) (s : State) : ExecOutcome (.fqDeq q) s (execFqDeq q s) := by
  unfold execFqDeq
  split
  · next hrole => exact .faults (by simp [faultOf, hrole])
  · next hrole =>
    have hcons := not_not.1 hrole
    split
    · next rr hm =>
      have hfault : faultOf (.fqDeq q) s = none := by simp [faultOf, hcons, hm]
      split
      · exact .takes hfault (.fqDeqRead hcons hm)
      · next hrr => exact .stops hfault ⟨rr, hm, hrr⟩
    · next rr v hm => exact .takes (by simp [faultOf, hcons, hm]) (.fqDeqTake hcons hm)
    · next hs2 hs3 =>
      have hfault : faultOf (.fqDeq q) s = if (s.fifo q).r = (s.fifo q).w then some .fifoUnderflow else none := by
        simp only [faultOf, if_neg hrole]
      dsimp only
      split
      · next hempty => exact .faults (by rw [hfault, if_pos hempty])
      · next hne => exact .takes (by rw [hfault, if_neg hne]) (.fqDeqLoad hcons hne)

theorem fqEmpty_outcome (q : Queue) (s : State) : ExecOutcome (.fqEmpty q) s (execFqEmpty q s) := by
  unfold execFqEmpty
  split
  · next a hm => exact .takes rfl (.fqEmptyAnswer hm)
  · exact .takes rfl .fqEmptyLoad

theorem fqFull_outcome (q : Queue) (s : State) : ExecOutcome (.fqFull q) s (execFqFull q s) := by
  unfold execFqFull
  split
  · next a hm => exact .takes rfl (.fqFullAnswer hm)
  · exact .takes rfl .fqFullLoad

theorem uInit_outcome (ch : Chan) (nine intmode : Bool) (baud : Word) (s : State) :
    ExecOutcome (.uInit ch nine intmode baud) s (execUInit ch nine intmode baud s) := by
  unfold execUInit onChannel
  split
  · next hpres =>
    split
    · next hd => exact .faults (by simp [faultOf, hpres, hd])
    · next d hd =>
      split
      · next hbusy => exact .faults (by simp [faultOf, hpres, hd, hbusy])
      · next hidle => exact .takes (by simp [faultOf, hpres, hd, hidle]) (.uInit hd (by simpa using hidle))
  · next hpres => exact .faults (by simp [faultOf, hpres])

theorem uTxw_outcome (ch : Chan) (w : Word) (s : State) : ExecOutcome (.uTxw ch w) s (execUTxw ch w s) := by
  unfold execUTxw
  split
  · next hm =>
    have hfault : faultOf (.uTxw ch w) s = none := by simp [faultOf, hm]
    split
    · next hwait => exact .takes hfault (.uTxwWait hm hwait)
    · next t hphase =>
      split
      · next hbusy => exact .takes hfault (.uTxwPhase hm hphase hbusy)
      · next hidle => exact .takes hfault (.uTxwEnd hm hphase (by simpa using hidle))
  · next hnot =>
    have hm : microOf s ≠ .inSeq := hnot
    unfold onChannel
    split
    · next hpres =>
      split
      · next hbusy => exact .faults (by simp [faultOf, hm, hpres, hbusy])
      · next hidle => exact .takes (by simp [faultOf, hm, hpres, hidle]) (.uTxwBegin hm (by simpa using hidle))
    · next hpres => exact .faults (by simp [faultOf, hm, hpres])

/-- A command of format C whose one fault is NO_CHANNEL. -/
theorem onChannel_outcome {i : Instr} {ch : Chan} {s t : State} {e : Ending}
    (hfault : faultOf i s = if s.cfg.present ch then none else some .noChannel) (htakes : Takes i s t e) :
    ExecOutcome i s (onChannel ch s (.next (e.apply i t))) := by
  unfold onChannel
  split
  · next hpres => exact .takes (by simp [hfault, hpres]) htakes
  · next hpres => exact .faults (by simp [hfault, hpres])

/-- A read that raises its fault or answers. -/
theorem read_outcome {i : Instr} {s : State} {v : Word} (hi : OnlyAnswers i) :
    ExecOutcome i s (match faultOf i s with | some k => raised k s | none => done i (some v) s) := by
  split
  · next k hfault => exact .faults hfault
  · next hfault => exact .takes hfault (.answers hi)

theorem fbEnq_outcome (idx : BitVec 9) (s : State) : ExecOutcome (.fbEnq idx) s (execFbEnq idx s) := by
  have hstep : ∀ (hfault : faultOf (.fbEnq idx) s = none)
      (hrole : (∃ p a, microOf s = .fbEnq p a) ∨ active s = s.cfg.prod .txq),
      ExecOutcome (.fbEnq idx) s (fbEnqStep idx (fbEnqAt (microOf s)).1 (fbEnqAt (microOf s)).2 s) := by
    intro hfault hrole
    unfold fbEnqStep
    split
    · next t n hs =>
      have := ExecOutcome.takes hfault (.fbEnq hrole hs)
      unfold fbEnqAfter
      cases n with
      | more a => exact this
      | _ =>
        dsimp only [fbEnqEnding] at this ⊢
        split at this
        · next hp => rwa [if_pos hp]
        · next hp => rwa [if_neg hp]
    · next hs =>
      obtain ⟨ww, x, ha, hww⟩ := enqStep_eq_none hs
      have hm := eq_fbEnq_of_fbEnqAt (m := microOf s) (ha ▸ nofun)
      exact .stops hfault ⟨_, ww, x, ha ▸ hm, hww⟩
  unfold execFbEnq
  split
  · next p a hm =>
    have := hstep (by simp [faultOf, hm]) (.inl ⟨p, a, hm⟩)
    rwa [hm] at this
  · next hm =>
    have hfault : faultOf (.fbEnq idx) s = fbEnqFault s idx := by
      simp only [faultOf]
    have hat : fbEnqAt (microOf s) = (0, .s1) := by
      cases h : microOf s with
      | fbEnq p a => exact absurd h (hm p a)
      | _ => rfl
    split
    · next k hk => exact .faults (hfault.trans hk)
    · next hk =>
      have hrole : active s = s.cfg.prod .txq := by
        unfold fbEnqFault at hk
        split at hk
        · cases hk
        · split at hk
          · cases hk
          · next h => exact not_not.1 h
      have := hstep (hfault.trans hk) (.inr hrole)
      rwa [hat] at this

theorem dspPoll_outcome (s : State) : ExecOutcome .dspPoll s (execDspPoll s) := by
  unfold execDspPoll
  cases hm : microOf s with
  | pollS3 w => exact .takes (e := .ends (some w)) rfl (.dspPollFeed hm)
  | pollS2 =>
    dsimp only
    split
    · exact .takes (e := .goesOn (.pollS3 (receiveWord s.cfg.rxCh s).1)) rfl .dspPollReceive
    · exact .takes (e := .ends (some (receiveWord s.cfg.rxCh s).1)) rfl .dspPollFaulty
  | _ =>
    dsimp only
    split
    · exact .takes (e := .goesOn .pollS2) rfl .dspPollAsk
    · exact .takes (e := .ends (some (noData s.cfg))) rfl .dspPollNoData

theorem regRd_outcome (addr : Byte) (s : State) : ExecOutcome (.regRd addr) s (execRegRd addr s) := by
  unfold execRegRd
  split
  · next hreg => exact .faults (by simp [faultOf, hreg])
  · next r hreg => exact .takes (by simp [faultOf, hreg]) (.answers (i := .regRd addr) trivial)

theorem regWr_outcome (addr : Byte) (v : Word) (s : State) : ExecOutcome (.regWr addr v) s (execRegWr addr v s) := by
  unfold execRegWr
  split
  · next hreg => exact .faults (by simp [faultOf, hreg])
  · next r hreg =>
    split
    · next hw => exact .takes (by simp [faultOf, hreg, hw]) (.regWr hreg hw)
    · next hw => exact .faults (by simp [faultOf, hreg, hw])

/-- A step of a command has one of the three outcomes. -/
theorem exec_outcome (i : Instr) (s : State) : ExecOutcome i s (exec i s) := by
  cases i with
  | fqInit q => exact .takes rfl .fqInit
  | fqEnq q v => exact fqEnq_outcome q v s
  | fqDeq q => exact fqDeq_outcome q s
  | fqEmpty q => exact fqEmpty_outcome q s
  | fqFull q => exact fqFull_outcome q s
  | uInit ch nine intmode baud => exact uInit_outcome ch nine intmode baud s
  | uTxw ch w => exact uTxw_outcome ch w s
  | uRxav ch => exact onChannel_outcome rfl (.answers (i := .uRxav ch) trivial)
  | uRxw ch => exact onChannel_outcome rfl .uRxw
  | uTxrdy ch => exact onChannel_outcome rfl (.answers (i := .uTxrdy ch) trivial)
  | dmFeed w => exact .takes rfl .dmFeed
  | fbBuild => exact .takes rfl .fbBuild
  | fbRdw idx wire => exact read_outcome (i := .fbRdw idx wire) trivial
  | fbLen idx => exact read_outcome (i := .fbLen idx) trivial
  | fbCk idx => exact read_outcome (i := .fbCk idx) trivial
  | fbEnq idx => exact fbEnq_outcome idx s
  | ckInit => exact .takes rfl .ckInit
  | ckUpd w => exact .takes rfl .ckUpd
  | ckRd => exact .takes rfl (.answers (i := .ckRd) trivial)
  | dspPoll => exact dspPoll_outcome s
  | regRd addr => exact regRd_outcome addr s
  | regWr addr v => exact regWr_outcome addr v s

/-- A step of a command that answers a next state raised its fault, or took its effect. -/
theorem exec_next {i : Instr} {s t : State} (h : exec i s = .next t) :
    (∃ k, faultOf i s = some k ∧ t = raiseFault k s) ∨
      (faultOf i s = none ∧ ∃ u e, Takes i s u e ∧ t = e.apply i u) := by
  have ho := exec_outcome i s
  rw [h] at ho
  cases ho with
  | @faults k hfault => exact .inl ⟨k, hfault, rfl⟩
  | @takes u e hfault htakes => exact .inr ⟨hfault, u, e, htakes, rfl⟩

theorem exec_of_faultOf {i : Instr} {s : State} {k : FaultCode} (h : faultOf i s = some k) : exec i s = raised k s := by
  have ho := exec_outcome i s
  generalize exec i s = o at ho ⊢
  cases ho with
  | @faults k' hfault =>
    cases h.symm.trans hfault
    rfl
  | takes hfault _ => cases h.symm.trans hfault
  | stops hfault _ => cases h.symm.trans hfault

/-! ### The part of the state an effect touches -/

/-- Everything but one channel is as it was. -/
def ChanOnly (ch : Chan) (s t : State) : Prop := ∃ u, t = s.setChan ch u

theorem ChanOnly.refl (ch : Chan) (s : State) : ChanOnly ch s s := ⟨s.chan ch, (setChan_self s ch).symm⟩

theorem ChanOnly.trans {ch : Chan} {s t u : State} (hst : ChanOnly ch s t) (htu : ChanOnly ch t u) : ChanOnly ch s u := by
  obtain ⟨a, rfl⟩ := hst
  obtain ⟨b, rfl⟩ := htu
  exact ⟨b, setChan_setChan s ch a b⟩

theorem writeCtrl_chanOnly (ch : Chan) (c : Ctrl) (s : State) : ChanOnly ch s (writeCtrl ch c s) := ⟨_, rfl⟩

theorem toggleReceiver_chanOnly (ch : Chan) (s : State) : ChanOnly ch s (toggleReceiver ch s) :=
  (writeCtrl_chanOnly ch _ s).trans (writeCtrl_chanOnly ch _ _)

theorem receiveWord_chanOnly (ch : Chan) (s : State) : ChanOnly ch s (receiveWord ch s).2 := by
  unfold receiveWord
  split
  · split
    · exact .refl ch s
    · split
      · exact (toggleReceiver_chanOnly ch s).trans ⟨_, rfl⟩
      · exact ⟨_, rfl⟩
  · exact .refl ch s

theorem driveEnable_chanOnly (ch : Chan) (b : Bool) (s : State) : ChanOnly ch s (driveEnable ch b s) := by
  unfold driveEnable
  split
  · exact writeCtrl_chanOnly ch _ s
  · exact .refl ch s

theorem loadTx9_chanOnly (ch : Chan) (b : Bool) (s : State) : ChanOnly ch s (loadTx9 ch b s) := by
  unfold loadTx9
  split
  · exact .refl ch s
  · exact writeCtrl_chanOnly ch _ s

theorem setPhase_chanOnly (ch : Chan) (p : Phase) (s : State) : ChanOnly ch s (setPhase ch p s) := ⟨_, rfl⟩

theorem txwPhase_chanOnly {ch : Chan} {s t : State} (h : txwPhase ch s = some t) : ChanOnly ch s t := by
  unfold txwPhase at h
  split at h
  case h_1 => cases h; exact .refl ch s
  case h_2 => cases h; exact (driveEnable_chanOnly ch _ s).trans (setPhase_chanOnly ch _ _)
  case h_3 => cases h; exact setPhase_chanOnly ch _ _
  case h_4 =>
    split at h
    · cases h; exact setPhase_chanOnly ch _ _
    · cases h
  case h_5 => cases h; exact (loadTx9_chanOnly ch _ s).trans (setPhase_chanOnly ch _ _)
  case h_6 => cases h; exact ChanOnly.trans (t := loadHolding ch _ s) ⟨_, rfl⟩ (setPhase_chanOnly ch _ _)
  case h_7 =>
    split at h
    · cases h; exact setPhase_chanOnly ch _ _
    · cases h
  case h_8 => cases h; exact setPhase_chanOnly ch _ _
  case h_9 => cases h; exact (driveEnable_chanOnly ch _ s).trans (setPhase_chanOnly ch _ _)

/-- An effect touches one part of the state: a queue, a channel, the matcher, the checksum register, the frame table, or the four
writable fields of INTCTL; the matcher is fed by DM.FEED and by the s3 of DSP.POLL (R123). -/
inductive Touches (i : Instr) (s : State) : State → Prop
  | nothing : Touches i s s
  | fifo (q : Queue) (f : Fifo) : Touches i s (s.setFifo q f)
  | chan (ch : Chan) (u : Channel) : Touches i s (s.setChan ch u)
  | fed (w : Word) (hi : i = .dmFeed w ∨ (i = .dspPoll ∧ microOf s = .pollS3 w)) : Touches i s (feed w s)
  | outdir (d : BitVec 12) : Touches i s { s with mat := { s.mat with outdir := d } }
  | ckAcc (a : Word) : Touches i s { s with ckAcc := a }
  | table (hi : i = .fbBuild) : Touches i s { s with table := buildTable s, built := true }
  | intctl (v : Word) : Touches i s { s with intctl := s.intctl.write v }

theorem ChanOnly.touches {i : Instr} {ch : Chan} {s t : State} (h : ChanOnly ch s t) : Touches i s t := by
  obtain ⟨u, rfl⟩ := h
  exact .chan ch u

theorem enqStep_touches {i : Instr} {q : Queue} {v : Word} {a : EnqAt} {s t : State} {n : EnqNext}
    (h : enqStep q v a s = some (t, n)) : Touches i s t := by
  obtain ⟨-, rfl, -⟩ | ⟨ww, x, -, -, rfl, -⟩ | ⟨ww, -, rfl, -⟩ := enqStep_cases h
  · exact .nothing
  · exact .fifo q _
  · exact .fifo q _

theorem writeReg_touches (i : Instr) (s : State) (v : Word) (r : Reg) : Touches i s (writeReg s v r) := by
  cases r with
  | ctrl ch => exact .chan ch _
  | brg ch => exact .chan ch _
  | outdir => exact .outdir _
  | intctl => exact .intctl v
  | _ => exact .nothing

theorem Takes.touches {i : Instr} {s t : State} {e : Ending} (h : Takes i s t e) : Touches i s t := by
  cases h with
  | fqInit => exact .fifo _ _
  | fqEnq _ hstep => exact enqStep_touches hstep
  | fqDeqTake => exact .fifo _ _
  | @uInit _ ch => exact (ChanOnly.trans ⟨_, rfl⟩ (writeCtrl_chanOnly ch _ _)).touches
  | uTxwBegin => exact .chan _ _
  | uTxwPhase _ hphase => exact (txwPhase_chanOnly hphase).touches
  | uTxwEnd _ hphase => exact (txwPhase_chanOnly hphase).touches
  | uRxw => exact (receiveWord_chanOnly _ _).touches
  | dmFeed => exact .fed _ (.inl rfl)
  | fbBuild => exact .table rfl
  | fbEnq _ hstep => exact enqStep_touches hstep
  | ckInit => exact .ckAcc _
  | ckUpd => exact .ckAcc _
  | dspPollReceive => exact (receiveWord_chanOnly _ _).touches
  | dspPollFaulty => exact (receiveWord_chanOnly _ _).touches
  | dspPollFeed hm => exact .fed _ (.inr ⟨rfl, hm⟩)
  | regWr => exact writeReg_touches _ _ _ _
  | _ => exact .nothing

section Frame

variable {i : Instr} {s t : State} {e : Ending} (h : Takes i s t e)
include h

/-! No effect writes the configuration, ERR, RESULT, a position or the inputs, and none takes a handler up or down. -/

theorem Takes.cfg_eq : t.cfg = s.cfg := by cases h.touches <;> simp [feed]
theorem Takes.err_eq : t.err = s.err := by cases h.touches <;> simp [feed]
theorem Takes.result_eq : t.result = s.result := by cases h.touches <;> simp [feed]
theorem Takes.inlp_eq : t.intctl.inlp = s.intctl.inlp := by cases h.touches <;> simp [feed, Intctl.write]
theorem Takes.inhp_eq : t.intctl.inhp = s.intctl.inhp := by cases h.touches <;> simp [feed, Intctl.write]
theorem Takes.active_eq : active t = active s := by rw [active, active, h.inlp_eq, h.inhp_eq]

theorem Takes.pos_eq (x : Ctx) : t.pos x = s.pos x := by
  cases h.touches <;> first | exact setFifo_pos _ _ _ _ | exact setChan_pos _ _ _ _ | rfl

end Frame

/-! ### The end of a step leaves the parts of the state alone -/

section Apply

variable (e : Ending) (i : Instr) (s : State)

@[simp] theorem apply_cfg : (e.apply i s).cfg = s.cfg := by cases e <;> simp [Ending.apply]
@[simp] theorem apply_mat : (e.apply i s).mat = s.mat := by cases e <;> simp [Ending.apply]
@[simp] theorem apply_table : (e.apply i s).table = s.table := by cases e <;> simp [Ending.apply]
@[simp] theorem apply_built : (e.apply i s).built = s.built := by cases e <;> simp [Ending.apply]
@[simp] theorem apply_err : (e.apply i s).err = s.err := by cases e <;> simp [Ending.apply]
@[simp] theorem apply_fifo (q : Queue) : (e.apply i s).fifo q = s.fifo q := by cases e <;> simp [Ending.apply]
@[simp] theorem apply_chan (ch : Chan) : (e.apply i s).chan ch = s.chan ch := by cases e <;> simp [Ending.apply]

/-- Only the active context's position moves (R459). -/
theorem apply_pos_other {y : Ctx} (hy : y ≠ active s) : (e.apply i s).pos y = s.pos y := by
  cases e with
  | ends res =>
    simp only [Ending.apply, complete]
    cases hx : active s with
    | main => cases y <;> simp_all [State.pos]
    | lp =>
      rw [hx] at hy
      dsimp only
      split
      · cases y <;> simp_all [State.pos]
      · exact leave_pos_other s hy
    | hp =>
      rw [hx] at hy
      exact leave_pos_other s hy
  | goesOn m => exact setPos_pos_other s _ hy
  | stays => rfl

end Apply

/-! ### What a step of the block can do (R115, R154, R459, R460) -/

/-- The active context is at command `i`, in state `s₁`: the command in progress, or the one MAIN takes from the host. -/
inductive Begins (i : Instr) (s : State) : State → Prop
  | inProgress {m : Micro} (hpos : s.pos (active s) = .run i m) : Begins i s s
  | fromHost {c : Command} {cs : List Command} (hmain : active s = .main) (hpos : ∀ j m, s.pos (active s) ≠ .run j m)
      (hhost : s.host = c :: cs) (hdec : decode c = .ok i) : Begins i s { s with host := cs }

/-- The active context's step (R459): it returns from a handler, waits for the host, or raises or takes a command's step. -/
inductive ContextMoves (s : State) : State → Prop
  | returns (hhandler : active s ≠ .main) (hpos : ∀ j m, s.pos (active s) ≠ .run j m) : ContextMoves s (leave (active s) s)
  | waits : ContextMoves s s
  | undecoded {c : Command} {cs : List Command} {k : FaultCode} (hmain : active s = .main)
      (hpos : ∀ j m, s.pos (active s) ≠ .run j m) (hhost : s.host = c :: cs) : ContextMoves s (raiseFault k { s with host := cs })
  | faults {i : Instr} {s₁ : State} {k : FaultCode} (hbegins : Begins i s s₁) (hfault : faultOf i s₁ = some k) :
    ContextMoves s (raiseFault k s₁)
  | takes {i : Instr} {s₁ u : State} {e : Ending} (hbegins : Begins i s s₁) (htakes : Takes i s₁ u e) :
    ContextMoves s (e.apply i u)

/-- One step of an agent, its choice taken. -/
inductive Moves (s : State) : State → Prop
  | tick : Moves s (tick s)
  | line {ch : Chan} {t : State} (hline : t = lineLoad ch s ∨ t = lineShift ch s ∨ ∃ sym fe, t = lineArrive ch sym fe s) :
    Moves s t
  | host (c : Command) : Moves s (hostIssues c s)
  | hpEntry (hentry : hpEntry s = true) : Moves s (enterHp s)
  | lpEntry (hentry : lpEntry s = true) : Moves s (enterLp s)
  | context {t : State} (hcontext : ContextMoves s t) : Moves s t

theorem Begins.moves {i : Instr} {s s₁ t : State} (hb : Begins i s s₁) (h : exec i s₁ = .next t) :
    ContextMoves s t := by
  obtain ⟨k, hfault, rfl⟩ | ⟨-, u, e, htakes, rfl⟩ := exec_next h
  · exact .faults hb hfault
  · exact .takes hb htakes

theorem contextStep_moves {s t : State} (h : contextStep s = .next t) : ContextMoves s t := by
  obtain ⟨i, m, hpos, hs⟩ | ⟨hpos, hmain, hs⟩ | ⟨hpos, hhandler, hs⟩ := contextStep_cases s
  · exact (Begins.inProgress hpos).moves (hs ▸ h)
  · rw [hs, nextCommand] at h
    split at h
    · cases h
      exact .waits
    · next c cs hhost =>
      unfold beginCommand at h
      split at h
      · next i hdec => exact (Begins.fromHost hmain hpos hhost hdec).moves h
      · cases h
        exact .undecoded hmain hpos hhost
  · rw [hs] at h
    cases h
    exact .returns hhandler hpos

theorem agentStep_moves {c : Choice} {s t : State} (h : agentStep c s = .next t) : Moves s t := by
  cases c with
  | proc =>
    obtain ⟨hhp, hs⟩ | ⟨-, hlp, hs⟩ | ⟨-, -, hs⟩ := processorStep_cases s
    · cases hs.symm.trans h
      exact .hpEntry hhp
    · cases hs.symm.trans h
      exact .lpEntry hlp
    · exact .context (contextStep_moves (hs.symm.trans h))
  | tmr => cases h; exact .tick
  | load ch => cases h; exact .line (.inl rfl)
  | shift ch => cases h; exact .line (.inr (.inl rfl))
  | arrive ch sym fe => cases h; exact .line (.inr (.inr ⟨sym, fe, rfl⟩))
  | host w => cases h; exact .host w

/-- A step of the block is a step of one agent, after the choice is taken from the inputs. -/
theorem step_moves {s t : State} (h : step s = .next t) :
    s.cfg.ok = true ∧ ∃ cs n, Moves { s with sched := cs, seed := n } t := by
  obtain ⟨hok, hagent⟩ := step_next h
  obtain ⟨cs, n, hs⟩ := takeChoice_state s
  rw [hs] at hagent
  exact ⟨hok, cs, n, agentStep_moves hagent⟩

/-- What holds apart from the inputs and is kept by every agent is kept by every step. -/
theorem step_keeps {P : State → Prop} {s t : State} (hinputs : ∀ cs n, P s → P { s with sched := cs, seed := n })
    (hmoves : ∀ {s t : State}, P s → Moves s t → P t) (hs : P s) (h : step s = .next t) : P t := by
  obtain ⟨-, cs, n, hm⟩ := step_moves h
  exact hmoves (hinputs cs n hs) hm

/-- The state a command is begun in differs in the commands still issued. -/
theorem Begins.eq_withHost {i : Instr} {s s₁ : State} (h : Begins i s s₁) : ∃ cs, s₁ = { s with host := cs } := by
  cases h with
  | inProgress => exact ⟨s.host, rfl⟩
  | fromHost => exact ⟨_, rfl⟩

/-- A command taken from the host is at its first step. -/
theorem microOf_fromHost {s : State} {cs : List Command} (hpos : ∀ j m, s.pos (active s) ≠ .run j m) :
    microOf { s with host := cs } = .start := by
  have hsame : microOf { s with host := cs } = microOf s := by
    cases hx : active s <;> simp [microOf, active, State.pos] at hx ⊢
  rw [hsame, microOf]
  split
  · next i m h => exact absurd h (hpos i m)
  · rfl
  · rfl

/-- The context stands at the command's next step, or is about to begin it. -/
def AtCommand (i : Instr) (s : State) : Prop :=
  s.pos (active s) = .run i (microOf s) ∨ ((∀ j m, s.pos (active s) ≠ .run j m) ∧ microOf s = .start)

/-- A command past its first step is the one in progress. -/
theorem AtCommand.running {i : Instr} {s : State} (hat : AtCommand i s) (hm : microOf s ≠ .start) :
    s.pos (active s) = .run i (microOf s) := by
  obtain hrun | ⟨-, hstart⟩ := hat
  · exact hrun
  · exact absurd hstart hm

theorem Begins.at_active {i : Instr} {s s₁ : State} (h : Begins i s s₁) : AtCommand i s₁ := by
  cases h with
  | @inProgress m hpos => exact .inl (by rw [microOf_run rfl hpos, hpos])
  | fromHost _ hpos => exact .inr ⟨hpos, microOf_fromHost hpos⟩

/-- The bus side of a channel touches that channel only (R252, R253, R262). -/
theorem line_chanOnly {ch : Chan} {s t : State}
    (h : t = lineLoad ch s ∨ t = lineShift ch s ∨ ∃ sym fe, t = lineArrive ch sym fe s) : ChanOnly ch s t := by
  obtain rfl | rfl | ⟨sym, fe, rfl⟩ := h
  · unfold lineLoad
    dsimp only
    split
    · exact ⟨_, rfl⟩
    · exact .refl ch s
  · unfold lineShift
    split
    · exact ChanOnly.trans (t := appendTrace ch _ s) ⟨_, rfl⟩ ⟨_, rfl⟩
    · exact .refl ch s
  · unfold lineArrive
    dsimp only
    split
    · split
      · exact .refl ch s
      · split
        · exact ⟨_, rfl⟩
        · exact ⟨_, rfl⟩
    · exact .refl ch s

/-- A fault moves the active context's position only. -/
theorem raiseFault_pos_other (k : FaultCode) {s : State} {y : Ctx} (hy : y ≠ active s) : (raiseFault k s).pos y = s.pos y :=
  leave_pos_other _ hy

end Sys2Proof.StepCases

/-! PROOFS. What every step keeps or leaves alone: the positions of preempted contexts (R459), RESULT (R72, R159), ERR (R70, R451), the
matcher (R51, R123), the frame table (R365), and the handlers' places (R461, R470). -/

namespace Sys2Proof.Invariants

open Sys2Proof.Machine Sys2Proof.Safety Sys2Proof.StepCases

/-! ### The positions of the other contexts (R459, R464) -/

/-- Settles O7: a fault, a return and the end of a step write the active context's position, and effects write none. -/
theorem preemptedContextsKeepTheirPosition : Obligations.PreemptedContextsKeepTheirPosition := by
  intro s t h y hy
  cases contextStep_moves h with
  | returns => exact leave_pos_other s hy
  | waits => rfl
  | undecoded => exact raiseFault_pos_other _ hy
  | faults hbegins =>
    obtain ⟨cs, rfl⟩ := hbegins.eq_withHost
    exact raiseFault_pos_other _ hy
  | takes hbegins htakes =>
    obtain ⟨cs, rfl⟩ := hbegins.eq_withHost
    exact (apply_pos_other _ _ _ (htakes.active_eq ▸ hy)).trans (htakes.pos_eq y)

/-! ### RESULT (R72, R159, R471) -/

/-- Outside MAIN no end of a step writes RESULT. -/
theorem apply_result_handler (e : Ending) (i : Instr) {s : State} (hx : active s ≠ .main) :
    (e.apply i s).result = s.result := by
  cases e with
  | ends res => exact complete_result_handler i res hx
  | goesOn m => exact goOn_result i m s
  | stays => rfl

/-- Settles O49: in a handler no fault, return or end of a step writes RESULT, and effects and hardware steps do not. -/
theorem handlersLeaveResult : Obligations.HandlersLeaveResult := by
  intro s t h hx
  obtain ⟨-, cs, n, hm⟩ := step_moves h
  cases hm with
  | tick => unfold tick; split <;> rfl
  | line hline =>
    obtain ⟨u, rfl⟩ := line_chanOnly hline
    exact setChan_result _ _ _
  | host => rfl
  | hpEntry => rfl
  | lpEntry => rfl
  | context hc =>
    cases hc with
    | returns => exact leave_result _ _
    | waits => rfl
    | undecoded => exact raiseFault_result _ _
    | faults hbegins =>
      obtain ⟨cs, rfl⟩ := hbegins.eq_withHost
      exact raiseFault_result _ _
    | takes hbegins htakes =>
      obtain ⟨cs, rfl⟩ := hbegins.eq_withHost
      exact (apply_result_handler _ _ (htakes.active_eq ▸ hx)).trans htakes.result_eq

/-- The end of a command that has no result leaves RESULT alone (R159). -/
theorem complete_none_result (i : Instr) (s : State) : (complete i none s).result = s.result := by
  by_cases hx : active s = .main
  · rw [complete_main i none hx]
    rfl
  · exact complete_result_handler i none hx

/-- The commands R159 leaves without a result. -/
def ReturnsNothing : Instr → Prop
  | .fqInit _ | .fqEnq _ _ | .uInit _ _ _ _ | .uTxw _ _ | .dmFeed _ | .fbBuild | .fbEnq _ | .ckInit | .ckUpd _
  | .regWr _ _ => True
  | _ => False

/-- The value a step ends with, if it does. -/
def endingValue : Ending → Option Word
  | .ends res => res
  | .goesOn _ => none
  | .stays => none

theorem enqEnding_value (n : EnqNext) : endingValue (enqEnding n) = none := by
  cases n <;> rfl

theorem fbEnqEnding_value (idx : BitVec 9) (p : Nat) (n : EnqNext) : endingValue (fbEnqEnding idx p n) = none := by
  cases n with
  | more a => rfl
  | _ =>
    dsimp only [fbEnqEnding]
    split <;> rfl

/-- No step of such a command ends with a value. -/
theorem takes_value_none {i : Instr} {s t : State} {e : Ending} (hi : ReturnsNothing i) (h : Takes i s t e) :
    endingValue e = none := by
  cases h with
  | fqEnq => exact enqEnding_value _
  | fbEnq => exact fbEnqEnding_value _ _ _
  | answers hanswers => cases i <;> first | exact False.elim hi | exact False.elim hanswers
  | _ => first | rfl | exact False.elim hi

/-- A step that ends with no value leaves RESULT alone. -/
theorem apply_result_of_value_none {e : Ending} (i : Instr) (s : State) (he : endingValue e = none) :
    (e.apply i s).result = s.result := by
  cases e with
  | ends res =>
    cases he
    exact complete_none_result i s
  | goesOn m => exact goOn_result i m s
  | stays => rfl

/-- Settles O50: a step of such a command raises a fault, goes on, or ends without a value. -/
theorem commandsWithoutResultLeaveIt : Obligations.CommandsWithoutResultLeaveIt := by
  intro s t i h hi
  have hnothing : ReturnsNothing i := by
    obtain ⟨q, rfl⟩ | ⟨q, v, rfl⟩ | ⟨ch, n, m, b, rfl⟩ | ⟨ch, w, rfl⟩ | ⟨w, rfl⟩ | rfl | ⟨idx, rfl⟩ | rfl | ⟨w, rfl⟩ |
      ⟨a, v, rfl⟩ := hi
    all_goals trivial
  obtain ⟨k, -, rfl⟩ | ⟨-, u, e, htakes, rfl⟩ := exec_next h
  · exact raiseFault_result k s
  · exact (apply_result_of_value_none i u (takes_value_none hnothing htakes)).trans htakes.result_eq

/-! ### ERR (R70, R450, R451) -/

/-- A step leaves ERR alone or records one fault in it. -/
theorem moves_err_cases {s t : State} (h : Moves s t) : t.err = s.err ∨ ∃ k, t.err = recordFault k s.err := by
  cases h with
  | tick => left; unfold tick; split <;> rfl
  | line hline =>
    obtain ⟨u, rfl⟩ := line_chanOnly hline
    exact .inl (setChan_err _ _ _)
  | host => exact .inl rfl
  | hpEntry => exact .inl rfl
  | lpEntry => exact .inl rfl
  | context hc =>
    cases hc with
    | returns => exact .inl (leave_err _ _)
    | waits => exact .inl rfl
    | undecoded => exact .inr ⟨_, raiseFault_err _ _⟩
    | faults hbegins =>
      obtain ⟨cs, rfl⟩ := hbegins.eq_withHost
      exact .inr ⟨_, raiseFault_err _ _⟩
    | takes hbegins htakes =>
      obtain ⟨cs, rfl⟩ := hbegins.eq_withHost
      exact .inl ((apply_err _ _ _).trans htakes.err_eq)

theorem recordFault_faulted {e : ErrReg} (k : FaultCode) (h : e.faulted = true) : recordFault k e = e := by
  simp only [recordFault, h, if_true]
  rw [← h]

/-- Settles O47: recording a fault in an ERR that has one changes nothing. -/
theorem errIsSticky : Obligations.ErrIsSticky := by
  intro s t h hfaulted
  obtain ⟨-, cs, n, hm⟩ := step_moves h
  obtain herr | ⟨k, herr⟩ := moves_err_cases hm
  · exact herr
  · rw [herr]
    exact recordFault_faulted k hfaulted

/-- Recording a fault keeps the register legal: the first code stays, and a new one is a code of R450. -/
theorem recordFault_code {e : ErrReg} (k : FaultCode) (hcode : e.faulted = true → ∃ j, e.code = faultByte j) :
    ∃ j, (recordFault k e).code = faultByte j := by
  cases hf : e.faulted with
  | true => simpa [recordFault, hf] using hcode hf
  | false => exact ⟨k, by simp [recordFault, hf]⟩

/-- Settles O48. -/
theorem stepKeepsErrInv : Obligations.StepKeepsErrInv := by
  intro s t hinv h
  refine step_keeps (P := ErrInv) (fun _ _ h => ⟨h.none, h.code⟩) (fun {s t} hinv hm => ?_) hinv h
  obtain herr | ⟨k, herr⟩ := moves_err_cases hm
  · exact ⟨by rw [herr]; exact hinv.none, by rw [herr]; exact hinv.code⟩
  · refine ⟨fun hf => ?_, fun _ => ?_⟩
    · rw [herr] at hf
      cases hf
    · rw [herr]
      exact recordFault_code k hinv.code

/-! ### A fault of a command (R450, R451) -/

section OtherErr

/-! No command looks at ERR to find its fault or its slot. -/

variable (s : State) (e : ErrReg)

@[simp] theorem fifo_withErr (q : Queue) : ({ s with err := e } : State).fifo q = s.fifo q := by cases q <;> rfl
@[simp] theorem chan_withErr (ch : Chan) : ({ s with err := e } : State).chan ch = s.chan ch := by cases ch <;> rfl
@[simp] theorem active_withErr : active { s with err := e } = active s := rfl

@[simp] theorem microOf_withErr : microOf { s with err := e } = microOf s := by
  rw [microOf, microOf, active_withErr]
  cases active s <;> rfl

theorem faultOf_withErr (i : Instr) : faultOf i { s with err := e } = faultOf i s := by
  cases i <;> simp only [faultOf, fifo_withErr, chan_withErr, microOf_withErr, active_withErr] <;> rfl

theorem slotMissing_withErr (i : Instr) : SlotMissing i { s with err := e } ↔ SlotMissing i s := by
  cases i <;> simp [SlotMissing]

end OtherErr

/-- A command without a fault, whose slot exists, takes its effect. -/
theorem exec_of_no_fault {i : Instr} {s : State} (hfault : faultOf i s = none) (hslot : ¬SlotMissing i s) :
    ∃ u e, Takes i s u e ∧ exec i s = .next (e.apply i u) := by
  have ho := exec_outcome i s
  generalize exec i s = o at ho ⊢
  cases ho with
  | faults h => cases hfault.symm.trans h
  | takes _ htakes => exact ⟨_, _, htakes, rfl⟩
  | stops _ h => exact absurd h hslot

/-- A command without a fault that names a missing slot stops. -/
theorem exec_slotMissing {i : Instr} {s : State} (hfault : faultOf i s = none) (hslot : SlotMissing i s) :
    exec i s = .fault .slotRange := by
  cases i with
  | fqEnq q v =>
    obtain ⟨ww, x, hm, hww⟩ := hslot
    have hrole : active s = s.cfg.prod q := by simpa [faultOf] using hfault
    simp [exec, execFqEnq, hrole, hm, enqAt, enqStep, hww]
  | fqDeq q =>
    obtain ⟨rr, hm, hrr⟩ := hslot
    have hrole : active s = s.cfg.cons q := by simpa [faultOf, hm] using hfault
    simp [exec, execFqDeq, hrole, hm, hrr]
  | fbEnq idx =>
    obtain ⟨p, ww, x, hm, hww⟩ := hslot
    simp [exec, execFbEnq, fbEnqStep, hm, enqStep, hww]
  | _ => exact False.elim hslot

/-- Settles O46: the fault and the missing slot are the same whatever ERR holds, so a step raises a fault whatever ERR holds or takes
its effect, which leaves ERR alone. -/
theorem aFaultChangesErrAndPositionOnly : Obligations.AFaultChangesErrAndPositionOnly := by
  intro s u i h
  obtain ⟨k, hfault, rfl⟩ | ⟨hfault, v, e, htakes, rfl⟩ := exec_next h
  · rw [faultOf_withErr] at hfault
    have herr : (raiseFault k { s with err := ⟨0, false⟩ }).err = ⟨faultByte k, true⟩ := raiseFault_err _ _
    constructor
    · exact fun _ => ⟨k, by rw [herr], exec_of_faultOf hfault⟩
    · rw [herr]
      exact nofun
  · have herr : (e.apply i v).err = ⟨0, false⟩ := (apply_err e i v).trans htakes.err_eq
    rw [faultOf_withErr] at hfault
    have hslot : ¬SlotMissing i s := by
      intro hs
      have := exec_slotMissing ((faultOf_withErr s ⟨0, false⟩ i).trans hfault) ((slotMissing_withErr s _ i).2 hs)
      cases h.symm.trans this
    obtain ⟨w, e', htakes', hexec⟩ := exec_of_no_fault hfault hslot
    constructor
    · rw [herr]
      exact nofun
    · exact fun _ => ⟨_, hexec, (apply_err e' i w).trans htakes'.err_eq⟩

end Sys2Proof.Invariants

/-! PROOFS. The matcher has one writer (R123) and keeps its invariant (R51, R303); FB.BUILD alone writes the frame table (R121, R365); the
handlers stay in their places (R461, R462, R470). -/

namespace Sys2Proof.Invariants

open Sys2Proof.Machine Sys2Proof.Safety Sys2Proof.StepCases

/-! ### What a step can do to the parts only commands write -/

/-- A step takes the effect of a command of the active context, or leaves the queues, the matcher and the frame table alone. -/
theorem moves_takes_or_keeps {s t : State} (h : Moves s t) :
    (∃ i s₁ u e, Begins i s s₁ ∧ Takes i s₁ u e ∧ t = e.apply i u) ∨
      (t.cfg = s.cfg ∧ (∀ q, t.fifo q = s.fifo q) ∧ t.mat = s.mat ∧ t.table = s.table ∧ t.built = s.built) := by
  cases h with
  | tick => right; unfold tick; split <;> exact ⟨rfl, fun _ => rfl, rfl, rfl, rfl⟩
  | line hline =>
    obtain ⟨u, rfl⟩ := line_chanOnly hline
    exact .inr ⟨setChan_cfg _ _ _, setChan_fifo _ _ _, setChan_mat _ _ _, setChan_table _ _ _, setChan_built _ _ _⟩
  | host => exact .inr ⟨rfl, fun _ => rfl, rfl, rfl, rfl⟩
  | hpEntry => exact .inr ⟨rfl, fun _ => rfl, rfl, rfl, rfl⟩
  | lpEntry => exact .inr ⟨rfl, fun _ => rfl, rfl, rfl, rfl⟩
  | context hc =>
    cases hc with
    | returns => exact .inr ⟨leave_cfg _ _, leave_fifo _ _, leave_mat _ _, leave_table _ _, leave_built _ _⟩
    | waits => exact .inr ⟨rfl, fun _ => rfl, rfl, rfl, rfl⟩
    | undecoded =>
      exact .inr ⟨raiseFault_cfg _ _, raiseFault_fifo _ _, raiseFault_mat _ _, raiseFault_table _ _, raiseFault_built _ _⟩
    | faults hbegins =>
      obtain ⟨cs, rfl⟩ := hbegins.eq_withHost
      exact .inr ⟨raiseFault_cfg _ _, raiseFault_fifo _ _, raiseFault_mat _ _, raiseFault_table _ _, raiseFault_built _ _⟩
    | takes hbegins htakes => exact .inl ⟨_, _, _, _, hbegins, htakes, rfl⟩

/-! ### The matcher (R51, R123, R301, R303) -/

/-- An effect feeds the matcher in DM.FEED and in the s3 of DSP.POLL, and writes the pin directions in REG.WR. -/
theorem takes_mat_cases {i : Instr} {s t : State} {e : Ending} (h : Takes i s t e) :
    t.mat = s.mat ∨ (∃ d, t.mat = { s.mat with outdir := d }) ∨
      ∃ w, t.mat = s.mat.feed w ∧ (i = .dmFeed w ∨ (i = .dspPoll ∧ microOf s = .pollS3 w)) := by
  cases h.touches with
  | fifo => exact .inl (setFifo_mat _ _ _)
  | chan => exact .inl (setChan_mat _ _ _)
  | outdir d => exact .inr (.inl ⟨d, rfl⟩)
  | fed w hi => exact .inr (.inr ⟨w, rfl, hi⟩)
  | _ => exact .inl rfl

/-- The trigger after a feed is the signature of the history after the shift, and the unused lines are kept (R301, R303). -/
theorem matcherInv_feed {s : State} (w : Word) (hinv : MatcherInv s) : MatcherInv (feed w s) where
  trig := Encoding.trigger_feed w s
  unused := by
    rw [← hinv.unused]
    ext k hk
    have hbit : (feed w s).mat.out.getLsbD (9 + k) = s.mat.out.getLsbD (9 + k) := Demux.out_feed_unused s.mat w (by omega)
    simpa [hk] using hbit

/-- The invariant looks at the history and at OUT. -/
theorem matcherInv_of_mat {s t : State} (hmat : t.mat = s.mat) (hinv : MatcherInv s) : MatcherInv t where
  trig := by
    have := hinv.trig
    rwa [trigger, ← hmat] at this
  unused := by
    rw [hmat]
    exact hinv.unused

/-- Settles O31. -/
theorem stepKeepsMatcherInv : Obligations.StepKeepsMatcherInv := by
  intro s t hinv h
  refine step_keeps (P := MatcherInv) (fun _ _ h => ⟨h.trig, h.unused⟩) (fun {s t} hinv hm => ?_) hinv h
  obtain ⟨i, s₁, u, e, hbegins, htakes, rfl⟩ | ⟨-, -, hmat, -⟩ := moves_takes_or_keeps hm
  · obtain ⟨cs, rfl⟩ := hbegins.eq_withHost
    refine matcherInv_of_mat (apply_mat e i u) ?_
    obtain hmat | ⟨d, hmat⟩ | ⟨w, hmat, -⟩ := takes_mat_cases htakes
    · exact matcherInv_of_mat (s := s) hmat hinv
    · exact matcherInv_of_mat (s := { s with mat := { s.mat with outdir := d } }) hmat ⟨hinv.trig, hinv.unused⟩
    · exact matcherInv_of_mat (s := feed w s) hmat (matcherInv_feed w hinv)
  · exact matcherInv_of_mat hmat hinv

/-- Settles O32: the effects that change OUT are the feeds; a command just taken from the host is at its first step, so the s3 of
DSP.POLL is one in progress. -/
theorem oneWriterOfTheOutputs : Obligations.OneWriterOfTheOutputs := by
  intro s t h hout
  obtain ⟨-, cs, n, hm⟩ := step_moves h
  obtain ⟨i, s₁, u, e, hbegins, htakes, rfl⟩ | ⟨-, -, hmat, -⟩ := moves_takes_or_keeps hm
  · rw [apply_mat] at hout
    have hout' : u.mat.out ≠ s₁.mat.out := by
      obtain ⟨_, rfl⟩ := hbegins.eq_withHost
      exact hout
    obtain hmat | ⟨d, hmat⟩ | ⟨w, -, hi⟩ := takes_mat_cases htakes
    · exact absurd (congrArg Matcher.out hmat) hout'
    · exact absurd (congrArg Matcher.out hmat) hout'
    · cases hbegins with
      | inProgress hpos =>
        obtain rfl | ⟨rfl, hmicro⟩ := hi
        · exact .inl ⟨w, _, hpos⟩
        · rw [microOf_run rfl hpos] at hmicro
          exact .inr (.inl ⟨w, hmicro ▸ hpos⟩)
      | fromHost hmain hpos hhost hdec =>
        obtain rfl | ⟨rfl, hmicro⟩ := hi
        · exact .inr (.inr ⟨hmain, _, _, w, hhost, hdec⟩)
        · rw [microOf_fromHost hpos] at hmicro
          cases hmicro
  · exact absurd (congrArg Matcher.out hmat) hout

/-! ### The frame table (R57, R102, R121, R365) -/

/-- FB.BUILD alone writes the table and BUILT. -/
theorem takes_table_cases {i : Instr} {s t : State} {e : Ending} (h : Takes i s t e) :
    (t.table = s.table ∧ t.built = s.built) ∨ (i = .fbBuild ∧ t.table = buildTable s) := by
  cases h.touches with
  | fifo => exact .inl ⟨setFifo_table _ _ _, setFifo_built _ _ _⟩
  | chan => exact .inl ⟨setChan_table _ _ _, setChan_built _ _ _⟩
  | table hi => exact .inr ⟨hi, rfl⟩
  | _ => exact .inl ⟨rfl, rfl⟩

/-- An entry of the table FB.BUILD makes is the built one of its index. -/
theorem entryAt_buildTable {s t : State} (htable : t.table = buildTable s) {idx : Nat} (hidx : idx < tableSize s.cfg) :
    entryAt t idx = buildEntry s.cfg idx (entryAt s idx) := by
  rw [entryAt, htable, buildTable, List.getD_eq_getElem?_getD]
  simp [hidx]

/-- A built entry holds the frame of its index: its count, its core words, their checksum (R361, R363, R365). -/
theorem buildEntry_content (g : Cfg) (idx : Nat) (old : FrameEntry) :
    (buildEntry g idx old).count.toNat = coreCount idx ∧
      (buildEntry g idx old).core.take (coreCount idx) = coreWords g idx ∧
      (buildEntry g idx old).ck = crc16 g (coreWords g idx) := by
  have hlen := FrameBuilder.length_coreWords g idx
  refine ⟨?_, ?_, rfl⟩
  · have : coreCount idx < 2 ^ 4 := by unfold coreCount; split <;> decide
    simp only [buildEntry, hlen, BitVec.toNat_ofNat, Nat.mod_eq_of_lt this]
  · simp only [buildEntry]
    rw [← hlen, List.take_left]

theorem length_core_entryAt {s : State} (hwords : ∀ e ∈ s.table, e.core.length = 14) (idx : Nat) :
    (entryAt s idx).core.length = 14 := by
  unfold entryAt
  rw [List.getD_eq_getElem?_getD]
  cases hget : s.table[idx]? with
  | none => rfl
  | some e => exact hwords e (List.mem_of_getElem? hget)

/-- FB.BUILD makes a table of the invariant's form. -/
theorem frameInv_build {s t : State} (hcfg : t.cfg = s.cfg) (htable : t.table = buildTable s) (hinv : FrameInv s) :
    FrameInv t where
  size := by simp [htable, hcfg, buildTable]
  words := by
    intro e he
    rw [htable, buildTable] at he
    obtain ⟨idx, -, rfl⟩ := List.mem_map.1 he
    have hlen := FrameBuilder.length_coreWords s.cfg idx
    have hcount : coreCount idx ≤ 14 := by unfold coreCount; split <;> decide
    simp only [buildEntry, List.length_append, List.length_drop, length_core_entryAt hinv.words]
    omega
  content := by
    intro _ idx hidx
    rw [hcfg] at hidx ⊢
    rw [entryAt_buildTable htable hidx]
    exact buildEntry_content s.cfg idx _

theorem frameInv_of_table {s t : State} (hcfg : t.cfg = s.cfg) (htable : t.table = s.table) (hbuilt : t.built = s.built)
    (hinv : FrameInv s) : FrameInv t where
  size := by rw [htable, hcfg, hinv.size]
  words := by rw [htable]; exact hinv.words
  content := by
    rw [hbuilt, hcfg]
    intro hb idx hidx
    rw [entryAt, htable]
    exact hinv.content hb idx hidx

/-- Settles O38. -/
theorem stepKeepsFrameInv : Obligations.StepKeepsFrameInv := by
  intro s t hinv h
  refine step_keeps (P := FrameInv) (fun _ _ h => ⟨h.size, h.words, h.content⟩) (fun {s t} hinv hm => ?_) hinv h
  obtain ⟨i, s₁, u, e, hbegins, htakes, rfl⟩ | ⟨hcfg, -, -, htable, hbuilt⟩ := moves_takes_or_keeps hm
  · obtain ⟨cs, rfl⟩ := hbegins.eq_withHost
    refine frameInv_of_table (apply_cfg e i u) (apply_table e i u) (apply_built e i u) ?_
    have hinv' : FrameInv { s with host := cs } := ⟨hinv.size, hinv.words, hinv.content⟩
    obtain ⟨htable, hbuilt⟩ | ⟨-, htable⟩ := takes_table_cases htakes
    · exact frameInv_of_table htakes.cfg_eq htable hbuilt hinv'
    · exact frameInv_build htakes.cfg_eq htable hinv'
  · exact frameInv_of_table hcfg htable hbuilt hinv

/-! ### The handlers (R461, R462, R470) -/

/-- A command of the low-priority drain (R470). -/
def IsDrainCommand (g : Cfg) (i : Instr) : Prop :=
  i = .fqEmpty .txq ∨ i = .fqDeq .txq ∨ ∃ w, i = .uTxw g.txCh w

/-- The drain goes on with one of its own commands. -/
theorem drainNext_isDrainCommand {g : Cfg} {i j : Instr} {res : Option Word} (h : drainNext g.txCh i res = some j) :
    IsDrainCommand g j := by
  unfold drainNext at h
  split at h
  · split at h <;> cases h
    exact .inr (.inl rfl)
  · cases h
    exact .inr (.inr ⟨_, rfl⟩)
  · split at h <;> cases h
    exact .inl rfl
  · cases h

theorem HandlerInv.lp_run {s : State} (hinv : HandlerInv s) {i : Instr} {m : Micro} (hpos : s.posLp = .run i m) :
    s.intctl.inlp = true ∧ IsDrainCommand s.cfg i := by
  have hin : s.intctl.inlp = true := by
    by_contra hin
    rw [hinv.lpIdle (by simpa using hin)] at hpos
    cases hpos
  refine ⟨hin, ?_⟩
  obtain ⟨m', h | h | ⟨w, h⟩⟩ := hinv.lpRuns hin <;> cases hpos.symm.trans h
  · exact .inl rfl
  · exact .inr (.inl rfl)
  · exact .inr (.inr ⟨w, rfl⟩)

/-- The invariant looks at the positions, at INLP and INHP, and at TX_CH. -/
theorem handlerInv_of_same {s t : State} (hcfg : t.cfg = s.cfg) (hlp : t.intctl.inlp = s.intctl.inlp)
    (hhp : t.intctl.inhp = s.intctl.inhp) (hpos : ∀ x, t.pos x = s.pos x) (hinv : HandlerInv s) : HandlerInv t := by
  have hmain : t.posMain = s.posMain := hpos .main
  have hposLp : t.posLp = s.posLp := hpos .lp
  have hposHp : t.posHp = s.posHp := hpos .hp
  constructor
  · rw [hlp, hposLp]; exact hinv.lpIdle
  · rw [hlp, hposLp, hcfg]; exact hinv.lpRuns
  · rw [hhp, hposHp]; exact hinv.hpIdle
  · rw [hhp, hposHp]; exact hinv.hpRuns
  · rw [hmain]; exact hinv.mainPos

/-- A return clears the handler and its position together (R462). -/
theorem handlerInv_leave {s : State} (x : Ctx) (hinv : HandlerInv s) : HandlerInv (leave x s) := by
  cases x with
  | main => exact ⟨hinv.lpIdle, hinv.lpRuns, hinv.hpIdle, hinv.hpRuns, nofun⟩
  | lp => exact ⟨fun _ => rfl, nofun, hinv.hpIdle, hinv.hpRuns, hinv.mainPos⟩
  | hp => exact ⟨hinv.lpIdle, hinv.lpRuns, fun _ => rfl, nofun, hinv.mainPos⟩

/-- The low-priority handler may stand at any of its commands. -/
theorem handlerInv_drainPos {s : State} {i : Instr} (m : Micro) (hi : IsDrainCommand s.cfg i) (hin : s.intctl.inlp = true)
    (hinv : HandlerInv s) : HandlerInv { s with posLp := .run i m } where
  lpIdle := by intro h; cases hin.symm.trans h
  lpRuns := by
    intro _
    obtain rfl | rfl | ⟨w, rfl⟩ := hi
    · exact ⟨m, .inl rfl⟩
    · exact ⟨m, .inr (.inl rfl)⟩
    · exact ⟨m, .inr (.inr ⟨w, rfl⟩)⟩
  hpIdle := hinv.hpIdle
  hpRuns := hinv.hpRuns
  mainPos := hinv.mainPos

/-- The end of a step keeps the handlers in their places: the high-priority handler runs no command, and the low-priority one a
command of the drain. -/
theorem handlerInv_apply {s : State} {i : Instr} (e : Ending) (hinv : HandlerInv s) (hhp : active s ≠ .hp)
    (hlp : active s = .lp → IsDrainCommand s.cfg i) : HandlerInv (e.apply i s) := by
  cases hx : active s with
  | main =>
    have hmain : ∀ p v, p ≠ .hpStart → HandlerInv { s with posMain := p, result := v } := fun p v hp =>
      ⟨hinv.lpIdle, hinv.lpRuns, hinv.hpIdle, hinv.hpRuns, hp⟩
    cases e with
    | ends res =>
      have := hmain .none (res.getD s.result) nofun
      simpa only [Ending.apply, complete_main i res hx] using this
    | goesOn m =>
      have := hmain (.run i m) s.result nofun
      simpa only [Ending.apply, goOn, hx, State.setPos] using this
    | stays => exact hinv
  | lp =>
    have hin := ((active_lp_iff s).1 hx).2
    cases e with
    | ends res =>
      cases hd : drainNext s.cfg.txCh i res with
      | none => simpa only [Ending.apply, complete_lp_returns hx hd] using handlerInv_leave .lp hinv
      | some j =>
        simpa only [Ending.apply, complete_lp_goes_on hx hd] using
          handlerInv_drainPos .start (drainNext_isDrainCommand hd) hin hinv
    | goesOn m => simpa only [Ending.apply, goOn, hx, State.setPos] using handlerInv_drainPos m (hlp hx) hin hinv
    | stays => exact hinv
  | hp => exact absurd hx hhp

/-- The command a context steps is MAIN's, or one of the drain's (R470, R472). -/
theorem begins_context {s s₁ : State} {i : Instr} (hinv : HandlerInv s) (hb : Begins i s s₁) :
    active s ≠ .hp ∧ (active s = .lp → IsDrainCommand s.cfg i) := by
  cases hb with
  | inProgress hpos =>
    constructor
    · intro hx
      rw [hx] at hpos
      have := hinv.hpRuns ((active_hp_iff s).1 hx)
      cases this.symm.trans hpos
    · intro hx
      rw [hx] at hpos
      exact (HandlerInv.lp_run hinv hpos).2
  | fromHost hmain =>
    rw [hmain]
    exact ⟨nofun, nofun⟩

theorem handlerInv_of_moves {s t : State} (hinv : HandlerInv s) (h : Moves s t) : HandlerInv t := by
  cases h with
  | tick =>
    unfold tick
    split
    · exact ⟨hinv.lpIdle, hinv.lpRuns, hinv.hpIdle, hinv.hpRuns, hinv.mainPos⟩
    · exact hinv
  | line hline =>
    obtain ⟨u, rfl⟩ := line_chanOnly hline
    exact handlerInv_of_same (setChan_cfg _ _ _) (by simp) (by simp) (setChan_pos _ _ _) hinv
  | host => exact ⟨hinv.lpIdle, hinv.lpRuns, hinv.hpIdle, hinv.hpRuns, hinv.mainPos⟩
  | hpEntry => exact ⟨hinv.lpIdle, hinv.lpRuns, nofun, fun _ => rfl, hinv.mainPos⟩
  | lpEntry =>
    exact ⟨nofun, fun _ => ⟨.start, .inl rfl⟩, hinv.hpIdle, hinv.hpRuns, hinv.mainPos⟩
  | context hc =>
    cases hc with
    | returns => exact handlerInv_leave _ hinv
    | waits => exact hinv
    | undecoded =>
      exact handlerInv_leave _ ⟨hinv.lpIdle, hinv.lpRuns, hinv.hpIdle, hinv.hpRuns, hinv.mainPos⟩
    | faults hbegins =>
      obtain ⟨cs, rfl⟩ := hbegins.eq_withHost
      exact handlerInv_leave _ ⟨hinv.lpIdle, hinv.lpRuns, hinv.hpIdle, hinv.hpRuns, hinv.mainPos⟩
    | @takes i s₁ u e hbegins htakes =>
      obtain ⟨hhp, hlp⟩ := begins_context hinv hbegins
      obtain ⟨cs, rfl⟩ := hbegins.eq_withHost
      have hinv' : HandlerInv { s with host := cs } :=
        ⟨hinv.lpIdle, hinv.lpRuns, hinv.hpIdle, hinv.hpRuns, hinv.mainPos⟩
      refine handlerInv_apply e ?_ (htakes.active_eq ▸ hhp) (htakes.cfg_eq ▸ htakes.active_eq ▸ hlp)
      exact handlerInv_of_same htakes.cfg_eq htakes.inlp_eq htakes.inhp_eq htakes.pos_eq hinv'

/-- Settles O55. -/
theorem stepKeepsHandlerInv : Obligations.StepKeepsHandlerInv := by
  intro s t hinv h
  exact step_keeps (P := HandlerInv) (fun _ _ h => ⟨h.lpIdle, h.lpRuns, h.hpIdle, h.hpRuns, h.mainPos⟩)
    handlerInv_of_moves hinv h

end Sys2Proof.Invariants

/-! PROOFS. The receive invariant of a channel (R35, R40, R262, R263) and the transaction invariant of its sequencer (R45, R243). -/

namespace Sys2Proof.ChannelInvariants

open Sys2Proof.Machine Sys2Proof.Safety Sys2Proof.StepCases

/-! ### The effects on a channel -/

/-- The effects of commands on channel `ch`: U.INIT, the begin and a phase of U.TXW, a reception, and REG.WR to CTRL and to BRG. -/
inductive ChanEffect (ch : Chan) (s : State) : Instr → State → Prop
  | init {nine intmode : Bool} {baud : Word} (c : Ctrl) (d : Word) :
    ChanEffect ch s (.uInit ch nine intmode baud) (writeCtrl ch c (setBrg ch d s))
  | txwBegin {w : Word} (hm : microOf s ≠ .inSeq) (hidle : (s.chan ch).busy = false) :
    ChanEffect ch s (.uTxw ch w) (txwBegin ch w s)
  | txwPhase {w : Word} {t : State} (hm : microOf s = .inSeq) (hphase : txwPhase ch s = some t) :
    ChanEffect ch s (.uTxw ch w) t
  | receive {i : Instr} (hi : i = .uRxw ch ∨ i = .dspPoll) : ChanEffect ch s i (receiveWord ch s).2
  | ctrl {a : Byte} {v : Word} (c : Ctrl) : ChanEffect ch s (.regWr a v) (writeCtrl ch c s)
  | brg {a : Byte} {v : Word} (d : Word) : ChanEffect ch s (.regWr a v) (setBrg ch d s)

theorem enqStep_chan {q : Queue} {v : Word} {a : EnqAt} {s t : State} {n : EnqNext} (h : enqStep q v a s = some (t, n))
    (c : Chan) : t.chan c = s.chan c := by
  obtain ⟨-, rfl, -⟩ | ⟨ww, x, -, -, rfl, -⟩ | ⟨ww, -, rfl, -⟩ := enqStep_cases h
  · rfl
  · exact setFifo_chan _ _ _ _
  · exact setFifo_chan _ _ _ _

/-- An effect is one of those, or leaves the channels alone. -/
theorem takes_chan_cases {i : Instr} {s t : State} {e : Ending} (h : Takes i s t e) :
    (∃ ch, ChanEffect ch s i t) ∨ ∀ c, t.chan c = s.chan c := by
  cases h with
  | uInit => exact .inl ⟨_, .init _ _⟩
  | uTxwBegin hm hidle => exact .inl ⟨_, .txwBegin hm hidle⟩
  | uTxwPhase hm hphase => exact .inl ⟨_, .txwPhase hm hphase⟩
  | uTxwEnd hm hphase => exact .inl ⟨_, .txwPhase hm hphase⟩
  | uRxw => exact .inl ⟨_, .receive (.inl rfl)⟩
  | dspPollReceive => exact .inl ⟨_, .receive (.inr rfl)⟩
  | dspPollFaulty => exact .inl ⟨_, .receive (.inr rfl)⟩
  | @regWr _ _ _ r =>
    cases r with
    | ctrl ch => exact .inl ⟨ch, .ctrl _⟩
    | brg ch => exact .inl ⟨ch, .brg _⟩
    | _ => exact .inr fun _ => rfl
  | fqEnq _ hstep => exact .inr (enqStep_chan hstep)
  | fbEnq _ hstep => exact .inr (enqStep_chan hstep)
  | fqInit => exact .inr (setFifo_chan _ _ _)
  | fqDeqTake => exact .inr (setFifo_chan _ _ _)
  | _ => exact .inr fun _ => rfl

/-! ### The receive invariant -/

/-- A write of one channel keeps the invariant of every channel when it keeps that channel's. -/
theorem receiveInv_setChan {c ch : Chan} {s : State} {u : Channel} (hinv : ReceiveInv c s)
    (hch : c = ch → u.rxb.length ≤ s.cfg.rxbufDepth ∧ (u.oerr = true → u.ctrl.rxen = true) ∧
      (s.cfg.hasDir ch = false → u.ctrl.de = false)) : ReceiveInv c (s.setChan ch u) := by
  by_cases hc : c = ch
  · obtain ⟨hdepth, hoverrun, hhardwired⟩ := hch hc
    subst hc
    constructor <;> simp only [setChan_chan_same, setChan_cfg]
    · exact hdepth
    · exact hoverrun
    · exact hhardwired
  · constructor <;> simp only [setChan_chan_other s u hc, setChan_cfg]
    · exact hinv.depth
    · exact hinv.overrun
    · exact hinv.hardwired

/-- A write that leaves CTRL, RXB and OERR alone keeps it. -/
theorem receiveInv_quiet {c ch : Chan} {s : State} {u : Channel} (hinv : ReceiveInv c s)
    (hctrl : u.ctrl = (s.chan ch).ctrl) (hrxb : u.rxb = (s.chan ch).rxb) (hoerr : u.oerr = (s.chan ch).oerr) :
    ReceiveInv c (s.setChan ch u) := by
  refine receiveInv_setChan hinv ?_
  rintro rfl
  rw [hctrl, hrxb, hoerr]
  exact ⟨hinv.depth, hinv.overrun, hinv.hardwired⟩

/-- A write of CTRL keeps it: DE stays hardwired, and OERR falls with RXEN (R35, R263). -/
theorem receiveInv_writeCtrl {c : Chan} {s : State} (ch : Chan) (k : Ctrl) (hinv : ReceiveInv c s) :
    ReceiveInv c (writeCtrl ch k s) := by
  refine receiveInv_setChan hinv ?_
  rintro rfl
  refine ⟨hinv.depth, fun hoerr => ?_, fun hdir => ?_⟩
  · obtain ⟨hold, hfalls⟩ := (Bool.and_eq_true _ _).mp hoerr
    have hrxen : (s.ctrl c).rxen = true := hinv.overrun hold
    simpa [receiverFalls, hrxen] using hfalls
  · simp [hdir]

theorem receiveInv_driveEnable {c : Chan} {s : State} (ch : Chan) (b : Bool) (hinv : ReceiveInv c s) :
    ReceiveInv c (driveEnable ch b s) := by
  unfold driveEnable
  split
  · exact receiveInv_writeCtrl ch _ hinv
  · exact hinv

theorem receiveInv_loadTx9 {c : Chan} {s : State} (ch : Chan) (b : Bool) (hinv : ReceiveInv c s) :
    ReceiveInv c (loadTx9 ch b s) := by
  unfold loadTx9
  split
  · exact hinv
  · exact receiveInv_writeCtrl ch _ hinv

theorem receiveInv_setPhase {c : Chan} {s : State} (ch : Chan) (p : Phase) (hinv : ReceiveInv c s) :
    ReceiveInv c (setPhase ch p s) :=
  receiveInv_quiet hinv rfl rfl rfl

/-- The phases of a transaction write CTRL, THR and the phase (R243). -/
theorem receiveInv_txwPhase {c ch : Chan} {s t : State} (h : txwPhase ch s = some t) (hinv : ReceiveInv c s) :
    ReceiveInv c t := by
  unfold txwPhase at h
  split at h
  case h_1 => cases h; exact hinv
  case h_2 => cases h; exact receiveInv_setPhase ch _ (receiveInv_driveEnable ch _ hinv)
  case h_3 => cases h; exact receiveInv_setPhase ch _ hinv
  case h_4 =>
    split at h <;> cases h
    exact receiveInv_setPhase ch _ hinv
  case h_5 => cases h; exact receiveInv_setPhase ch _ (receiveInv_loadTx9 ch _ hinv)
  case h_6 => cases h; exact receiveInv_setPhase ch _ (receiveInv_quiet hinv rfl rfl rfl)
  case h_7 =>
    split at h <;> cases h
    exact receiveInv_setPhase ch _ hinv
  case h_8 => cases h; exact receiveInv_setPhase ch _ hinv
  case h_9 => cases h; exact receiveInv_setPhase ch _ (receiveInv_driveEnable ch _ hinv)

/-- A reception pops the head and may toggle the receiver (R249). -/
theorem receiveInv_receiveWord {c : Chan} {s : State} (ch : Chan) (hinv : ReceiveInv c s) :
    ReceiveInv c (receiveWord ch s).2 := by
  have hpop : ∀ {t : State}, ReceiveInv c t → ReceiveInv c (popRx ch t) := fun {t} ht => by
    refine receiveInv_setChan ht ?_
    rintro rfl
    exact ⟨(by simp : _ ≤ _).trans ht.depth, ht.overrun, ht.hardwired⟩
  unfold receiveWord
  split
  · split
    · exact hinv
    · split
      · exact hpop (receiveInv_writeCtrl ch _ (receiveInv_writeCtrl ch _ hinv))
      · exact hpop hinv
  · exact hinv

theorem receiveInv_of_chan {c : Chan} {s t : State} (hcfg : t.cfg = s.cfg) (hchan : t.chan c = s.chan c)
    (hinv : ReceiveInv c s) : ReceiveInv c t where
  depth := by rw [hchan, hcfg]; exact hinv.depth
  overrun := by rw [hchan]; exact hinv.overrun
  hardwired := by rw [hchan, hcfg]; exact hinv.hardwired

/-- Every effect of a command keeps it. -/
theorem receiveInv_takes {c : Chan} {i : Instr} {s t : State} {e : Ending} (h : Takes i s t e) (hinv : ReceiveInv c s) :
    ReceiveInv c t := by
  obtain ⟨ch, heffect⟩ | hsame := takes_chan_cases h
  · cases heffect with
    | init => exact receiveInv_writeCtrl ch _ (receiveInv_quiet hinv rfl rfl rfl)
    | txwBegin => exact receiveInv_quiet hinv rfl rfl rfl
    | txwPhase _ hphase => exact receiveInv_txwPhase hphase hinv
    | receive => exact receiveInv_receiveWord ch hinv
    | ctrl => exact receiveInv_writeCtrl ch _ hinv
    | brg => exact receiveInv_quiet hinv rfl rfl rfl
  · exact receiveInv_of_chan h.cfg_eq (hsame c) hinv

/-- The bus side of a channel keeps it: an arrival is held only while there is room, and overruns only an enabled receiver (R262). -/
theorem receiveInv_line {c ch : Chan} {s t : State}
    (h : t = lineLoad ch s ∨ t = lineShift ch s ∨ ∃ sym fe, t = lineArrive ch sym fe s) (hinv : ReceiveInv c s) :
    ReceiveInv c t := by
  obtain rfl | rfl | ⟨sym, fe, rfl⟩ := h
  · unfold lineLoad
    dsimp only
    split
    · exact receiveInv_quiet hinv rfl rfl rfl
    · exact hinv
  · unfold lineShift
    split
    · exact receiveInv_quiet (receiveInv_quiet hinv rfl rfl rfl) rfl rfl rfl
    · exact hinv
  · unfold lineArrive
    dsimp only
    split
    · next hhears =>
      have hrxen : (s.chan ch).ctrl.rxen = true := by
        simp only [hears, Bool.and_eq_true] at hhears
        exact hhears.1.2
      split
      · exact hinv
      · split
        · refine receiveInv_setChan hinv ?_
          rintro rfl
          exact ⟨hinv.depth, fun _ => hrxen, hinv.hardwired⟩
        · next hroom =>
          refine receiveInv_setChan hinv ?_
          rintro rfl
          have := hinv.depth
          exact ⟨by rw [List.length_append, List.length_singleton]; omega, fun _ => hrxen, hinv.hardwired⟩
    · exact hinv

theorem receiveInv_moves {c : Chan} {s t : State} (hinv : ReceiveInv c s) (h : Moves s t) : ReceiveInv c t := by
  cases h with
  | tick =>
    unfold tick
    split
    · exact receiveInv_of_chan (s := s) rfl rfl hinv
    · exact hinv
  | line hline => exact receiveInv_line hline hinv
  | host => exact receiveInv_of_chan (s := s) rfl rfl hinv
  | hpEntry => exact receiveInv_of_chan (s := s) rfl rfl hinv
  | lpEntry => exact receiveInv_of_chan (s := s) rfl rfl hinv
  | context hc =>
    cases hc with
    | returns => exact receiveInv_of_chan (leave_cfg _ _) (leave_chan _ _ _) hinv
    | waits => exact hinv
    | undecoded => exact receiveInv_of_chan (s := s) (raiseFault_cfg _ _) (raiseFault_chan _ _ _) hinv
    | faults hbegins =>
      obtain ⟨cs, rfl⟩ := hbegins.eq_withHost
      exact receiveInv_of_chan (s := s) (raiseFault_cfg _ _) (raiseFault_chan _ _ _) hinv
    | takes hbegins htakes =>
      obtain ⟨cs, rfl⟩ := hbegins.eq_withHost
      have hbegun : ReceiveInv c { s with host := cs } := receiveInv_of_chan (s := s) rfl rfl hinv
      exact receiveInv_of_chan (apply_cfg _ _ _) (apply_chan _ _ _ _) (receiveInv_takes htakes hbegun)

/-- Settles O28. -/
theorem stepKeepsReceiveInv : Obligations.StepKeepsReceiveInv := by
  intro s t ch hinv h
  exact step_keeps (P := ReceiveInv ch) (fun _ _ => receiveInv_of_chan rfl rfl) receiveInv_moves hinv h

/-! ### The transaction invariant -/

/-- A context is inside a U.TXW on channel `ch`. -/
def InTxw (ch : Chan) (p : Pos) : Prop := ∃ w, p = .run (.uTxw ch w) .inSeq

/-- The invariant looks at the sequencer and at which contexts are inside a U.TXW on its channel. -/
theorem seqInv_of_same {c : Chan} {s t : State} (hseq : (t.chan c).seq = (s.chan c).seq)
    (hpos : ∀ x, t.pos x = s.pos x ∨ (¬InTxw c (s.pos x) ∧ ¬InTxw c (t.pos x))) (hinv : SeqInv c s) : SeqInv c t where
  busyOwned := by
    rw [hseq]
    intro hbusy
    have howned := hinv.busyOwned hbusy
    obtain h | ⟨h, -⟩ := hpos (s.chan c).seq.owner
    · rw [h, howned]
    · exact absurd ⟨_, howned⟩ h
  insideBusy := by
    rw [hseq]
    intro x w hx
    obtain h | ⟨-, h⟩ := hpos x
    · exact hinv.insideBusy x w (h ▸ hx)
    · exact absurd ⟨w, hx⟩ h

/-- A channel effect other than U.TXW's leaves every sequencer alone. -/
theorem seq_setChan {c ch : Chan} {s : State} {u : Channel} (hu : u.seq = (s.chan ch).seq) :
    ((s.setChan ch u).chan c).seq = (s.chan c).seq := by
  by_cases hc : c = ch
  · subst hc
    rw [setChan_chan_same, hu]
  · rw [setChan_chan_other s u hc]

theorem seq_writeCtrl (c ch : Chan) (k : Ctrl) (s : State) : ((writeCtrl ch k s).chan c).seq = (s.chan c).seq :=
  seq_setChan rfl

theorem seq_popRx (c ch : Chan) (s : State) : ((popRx ch s).chan c).seq = (s.chan c).seq :=
  seq_setChan rfl

theorem seq_loadHolding (c ch : Chan) (v : Byte) (s : State) : ((loadHolding ch v s).chan c).seq = (s.chan c).seq :=
  seq_setChan rfl

theorem seq_receiveWord (c ch : Chan) (s : State) : ((receiveWord ch s).2.chan c).seq = (s.chan c).seq := by
  unfold receiveWord
  split
  · split
    · rfl
    · split
      · exact (seq_popRx c ch _).trans ((seq_writeCtrl c ch _ _).trans (seq_writeCtrl c ch _ s))
      · exact seq_popRx c ch s
  · rfl

theorem seq_driveEnable (c ch : Chan) (b : Bool) (s : State) : ((driveEnable ch b s).chan c).seq = (s.chan c).seq := by
  unfold driveEnable
  split
  · exact seq_writeCtrl c ch _ s
  · rfl

theorem seq_loadTx9 (c ch : Chan) (b : Bool) (s : State) : ((loadTx9 ch b s).chan c).seq = (s.chan c).seq := by
  unfold loadTx9
  split
  · rfl
  · exact seq_writeCtrl c ch _ s

/-- A phase keeps the transaction's word and owner (R45, R243). -/
theorem seq_setPhase (ch : Chan) (p : Phase) (s : State) :
    ((setPhase ch p s).chan ch).seq = { (s.chan ch).seq with phase := p } := by
  simp [setPhase]

theorem seq_txwPhase {ch : Chan} {s t : State} (h : txwPhase ch s = some t) :
    ∃ p, (t.chan ch).seq = { (s.chan ch).seq with phase := p } := by
  unfold txwPhase at h
  split at h
  case h_1 => cases h; exact ⟨_, rfl⟩
  case h_2 => cases h; exact ⟨_, by rw [seq_setPhase, seq_driveEnable]⟩
  case h_3 => cases h; exact ⟨_, seq_setPhase ch _ s⟩
  case h_4 => split at h <;> cases h; exact ⟨_, seq_setPhase ch _ s⟩
  case h_5 => cases h; exact ⟨_, by rw [seq_setPhase, seq_loadTx9]⟩
  case h_6 => cases h; exact ⟨_, by rw [seq_setPhase, seq_loadHolding]⟩
  case h_7 => split at h <;> cases h; exact ⟨_, seq_setPhase ch _ s⟩
  case h_8 => cases h; exact ⟨_, seq_setPhase ch _ s⟩
  case h_9 => cases h; exact ⟨_, by rw [seq_setPhase, seq_driveEnable]⟩

/-- The end of a command leaves its context at no command or at the first step of one. -/
theorem complete_not_inTxw (c : Chan) (i : Instr) (res : Option Word) (s : State) :
    ¬InTxw c ((complete i res s).pos (active s)) := by
  rintro ⟨w, hpos⟩
  unfold complete at hpos
  cases hx : active s with
  | main => simp [hx, State.pos] at hpos
  | lp =>
    rw [hx] at hpos
    dsimp only at hpos
    split at hpos
    · cases hpos
    · cases hpos
  | hp => simp [hx] at hpos

/-- The start of a transaction makes its sequencer busy with it, and its context is the one inside it (R243). -/
theorem seqInv_begin {c ch : Chan} {s : State} {w : Word} (hat : ¬InTxw c (s.pos (active s)))
    (hidle : (s.chan ch).busy = false) (hinv : SeqInv c s) :
    SeqInv c (goOn (.uTxw ch w) .inSeq (txwBegin ch w s)) := by
  have hactive : active (txwBegin ch w s) = active s := active_setChan _ _ _
  have hposActive : (goOn (.uTxw ch w) .inSeq (txwBegin ch w s)).pos (active s) = .run (.uTxw ch w) .inSeq :=
    hactive ▸ goOn_pos_active _ _ _
  have hposOther : ∀ x, x ≠ active s → (goOn (.uTxw ch w) .inSeq (txwBegin ch w s)).pos x = s.pos x := fun x hx =>
    (setPos_pos_other _ _ (hactive ▸ hx)).trans (setChan_pos _ _ _ _)
  by_cases hc : c = ch
  · subst hc
    have hseq : ((goOn (.uTxw c w) .inSeq (txwBegin c w s)).chan c).seq = ⟨.deOn, w, active s⟩ := by
      rw [goOn_chan, txwBegin, setChan_chan_same]
    constructor
    · rw [hseq]
      exact fun _ => hposActive
    · rw [hseq]
      intro x v hx
      by_cases hxa : x = active s
      · exact ⟨nofun, hxa.symm⟩
      · rw [hposOther x hxa] at hx
        have := (hinv.insideBusy x v hx).1
        simp [Channel.busy, this] at hidle
  · have hseq : ((goOn (.uTxw ch w) .inSeq (txwBegin ch w s)).chan c).seq = (s.chan c).seq := by
      rw [goOn_chan, txwBegin, setChan_chan_other s _ hc]
    refine seqInv_of_same hseq (fun x => ?_) hinv
    by_cases hxa : x = active s
    · refine .inr ⟨hxa ▸ hat, ?_⟩
      rw [hxa, hposActive]
      rintro ⟨v, hv⟩
      cases hv
      exact hc rfl
    · exact .inl (hposOther x hxa)

/-- A phase that leaves the sequencer busy leaves the transaction with its owner. -/
theorem seqInv_phase {c ch : Chan} {s t : State} (hphase : txwPhase ch s = some t) (hat : InTxw ch (s.pos (active s)))
    (hbusy : (t.chan ch).busy = true) (hinv : SeqInv c s) : SeqInv c t := by
  obtain ⟨u, rfl⟩ := txwPhase_chanOnly hphase
  by_cases hc : c = ch
  · subst hc
    obtain ⟨p, hseq⟩ := seq_txwPhase hphase
    obtain ⟨v, hv⟩ := hat
    have hwas := (hinv.insideBusy _ v hv).1
    constructor
    · rw [hseq]
      exact fun _ => (setChan_pos _ _ _ _).trans (hinv.busyOwned hwas)
    · intro x w hx
      rw [setChan_pos] at hx
      refine ⟨by simpa [Channel.busy] using hbusy, ?_⟩
      rw [hseq]
      exact (hinv.insideBusy x w hx).2
  · exact seqInv_of_same (by rw [setChan_chan_other s u hc]) (fun x => .inl (setChan_pos _ _ _ _)) hinv

/-- The last phase leaves the sequencer idle and its context outside the transaction. -/
theorem seqInv_end {c ch : Chan} {s t : State} {w : Word} (hphase : txwPhase ch s = some t)
    (hat : s.pos (active s) = .run (.uTxw ch w) .inSeq) (hidle : (t.chan ch).busy = false) (hinv : SeqInv c s) :
    SeqInv c (complete (.uTxw ch w) none t) := by
  obtain ⟨u, rfl⟩ := txwPhase_chanOnly hphase
  have hactive : active (s.setChan ch u) = active s := active_setChan _ _ _
  have hother : ∀ x, x ≠ active s → (complete (.uTxw ch w) none (s.setChan ch u)).pos x = s.pos x := fun x hx =>
    (apply_pos_other (.ends none) (.uTxw ch w) _ (hactive ▸ hx)).trans (setChan_pos _ _ _ _)
  have hout : ∀ d, ¬InTxw d ((complete (.uTxw ch w) none (s.setChan ch u)).pos (active s)) := fun d =>
    hactive ▸ complete_not_inTxw d _ _ (s.setChan ch u)
  by_cases hc : c = ch
  · subst hc
    have hphaseIdle : ((complete (.uTxw c w) none (s.setChan c u)).chan c).seq.phase = .idle := by
      simpa [Channel.busy] using hidle
    constructor
    · exact fun hbusy => absurd hphaseIdle hbusy
    · intro x v hx
      by_cases hxa : x = active s
      · exact absurd ⟨v, hxa ▸ hx⟩ (hout c)
      · rw [hother x hxa] at hx
        exact absurd ((hinv.insideBusy x v hx).2.symm.trans (hinv.insideBusy _ w hat).2) hxa
  · refine seqInv_of_same (by rw [complete_chan, setChan_chan_other s u hc]) (fun x => ?_) hinv
    by_cases hxa : x = active s
    · refine .inr ⟨?_, hxa ▸ hout c⟩
      rw [hxa, hat]
      rintro ⟨v, hv⟩
      cases hv
      exact hc rfl
    · exact .inl (hother x hxa)

/-- A command other than U.TXW leaves the sequencers alone, and its context outside every transaction. -/
theorem seqInv_other {c : Chan} {i : Instr} {s t : State} {e : Ending} (hi : ∀ ch w, i ≠ .uTxw ch w) (h : Takes i s t e)
    (hat : ¬InTxw c (s.pos (active s))) (hinv : SeqInv c s) : SeqInv c (e.apply i t) := by
  have hseq : (t.chan c).seq = (s.chan c).seq := by
    obtain ⟨ch, heffect⟩ | hsame := takes_chan_cases h
    · cases heffect with
      | init => exact (seq_writeCtrl c ch _ _).trans (seq_setChan rfl)
      | txwBegin => exact absurd rfl (hi _ _)
      | txwPhase => exact absurd rfl (hi _ _)
      | receive => exact seq_receiveWord c ch s
      | ctrl => exact seq_writeCtrl c ch _ s
      | brg => exact seq_setChan rfl
    · rw [hsame c]
  refine seqInv_of_same ((congrArg Channel.seq (apply_chan e i t c)).trans hseq) (fun x => ?_) hinv
  by_cases hx : x = active s
  · cases e with
    | ends res =>
      refine .inr ⟨hx ▸ hat, ?_⟩
      rw [hx, ← h.active_eq]
      exact complete_not_inTxw c i res t
    | goesOn m =>
      refine .inr ⟨hx ▸ hat, ?_⟩
      rw [hx, ← h.active_eq, Ending.apply, goOn_pos_active]
      rintro ⟨w, hw⟩
      cases hw
      exact hi c w rfl
    | stays => exact .inl (h.pos_eq x)
  · exact .inl ((apply_pos_other e i t (h.active_eq ▸ hx)).trans (h.pos_eq x))

/-- The step of a command begun in its place keeps the invariant. -/
theorem seqInv_takes {c : Chan} {i : Instr} {s t : State} {e : Ending}
    (hbegun : AtCommand i s) (h : Takes i s t e) (hinv : ∀ d, SeqInv d s) : SeqInv c (e.apply i t) := by
  have hout : (∀ ch w, i = .uTxw ch w → microOf s ≠ .inSeq) → ¬InTxw c (s.pos (active s)) := by
    rintro hi ⟨w, hw⟩
    obtain hrun | ⟨hnone, -⟩ := hbegun
    · rw [hw] at hrun
      injection hrun with hinstr hmicro
      exact hi c w hinstr.symm hmicro.symm
    · exact hnone _ _ hw
  have hin : ∀ ch w, i = .uTxw ch w → microOf s = .inSeq → s.pos (active s) = .run (.uTxw ch w) .inSeq := by
    rintro ch w rfl hm
    obtain hrun | ⟨-, hstart⟩ := hbegun
    · rw [hrun, hm]
    · cases hm.symm.trans hstart
  by_cases hi : ∀ ch w, i ≠ .uTxw ch w
  · exact seqInv_other hi h (hout fun ch w h => absurd h (hi ch w)) (hinv c)
  · push Not at hi
    obtain ⟨ch, w, rfl⟩ := hi
    cases h with
    | uTxwBegin hm hidle => exact seqInv_begin (hout fun _ _ _ => hm) hidle (hinv c)
    | uTxwWait => exact hinv c
    | uTxwPhase hm hphase hbusy => exact seqInv_phase hphase ⟨w, hin ch w rfl hm⟩ hbusy (hinv c)
    | uTxwEnd hm hphase hidle => exact seqInv_end hphase (hin ch w rfl hm) hidle (hinv c)
    | answers hanswers => exact False.elim hanswers

/-- A fault of a context outside every transaction leaves the transactions alone; U.TXW raises none once it has begun. -/
theorem seqInv_raiseFault {c : Chan} {s : State} (k : FaultCode) (hat : ¬InTxw c (s.pos (active s))) (hinv : SeqInv c s) :
    SeqInv c (raiseFault k s) := by
  refine seqInv_of_same (by rw [raiseFault_chan]) (fun x => ?_) hinv
  by_cases hx : x = active s
  · refine .inr ⟨hx ▸ hat, ?_⟩
    rw [hx, raiseFault, leave_pos_same]
    exact fun h => nomatch h
  · exact .inl (raiseFault_pos_other k hx)

theorem seq_appendTrace (c ch : Chan) (e : Event) (s : State) : ((appendTrace ch e s).chan c).seq = (s.chan c).seq :=
  seq_setChan rfl

theorem seq_emptyShifter (c ch : Chan) (s : State) : ((emptyShifter ch s).chan c).seq = (s.chan c).seq :=
  seq_setChan rfl

theorem seq_line {c ch : Chan} {s t : State}
    (h : t = lineLoad ch s ∨ t = lineShift ch s ∨ ∃ sym fe, t = lineArrive ch sym fe s) :
    (t.chan c).seq = (s.chan c).seq := by
  obtain rfl | rfl | ⟨sym, fe, rfl⟩ := h
  · unfold lineLoad
    dsimp only
    split
    · exact seq_setChan rfl
    · rfl
  · unfold lineShift
    split
    · exact (seq_emptyShifter c ch _).trans (seq_appendTrace c ch _ s)
    · rfl
  · unfold lineArrive
    dsimp only
    split
    · split
      · rfl
      · split
        · exact seq_setChan rfl
        · exact seq_setChan rfl
    · rfl

theorem seqInv_of_moves {c : Chan} {s t : State} (hhandlers : HandlerInv s) (hinv : ∀ d, SeqInv d s) (h : Moves s t) :
    SeqInv c t := by
  have hnone : ∀ d, ¬InTxw d .none := fun d h => nomatch h
  cases h with
  | tick =>
    unfold tick
    split
    · exact ⟨(hinv c).busyOwned, (hinv c).insideBusy⟩
    · exact hinv c
  | line hline =>
    have hseq := seq_line (c := c) hline
    obtain ⟨u, rfl⟩ := line_chanOnly hline
    exact seqInv_of_same hseq (fun x => .inl (setChan_pos _ _ _ _)) (hinv c)
  | host => exact ⟨(hinv c).busyOwned, (hinv c).insideBusy⟩
  | hpEntry hentry =>
    have hidle := hhandlers.hpIdle ((Interrupts.hpEntry_iff s).1 hentry).2.1
    refine seqInv_of_same (s := s) rfl (fun x => ?_) (hinv c)
    cases x with
    | hp => exact .inr ⟨fun ⟨w, hw⟩ => (nomatch hidle.symm.trans hw), nofun⟩
    | _ => exact .inl rfl
  | lpEntry hentry =>
    have hidle := hhandlers.lpIdle ((Interrupts.lpEntry_iff s).1 hentry).2.2.1
    refine seqInv_of_same (s := s) rfl (fun x => ?_) (hinv c)
    cases x with
    | lp => exact .inr ⟨fun ⟨w, hw⟩ => (nomatch hidle.symm.trans hw), nofun⟩
    | _ => exact .inl rfl
  | context hc =>
    cases hc with
    | returns _ hpos =>
      refine seqInv_of_same (by rw [leave_chan]) (fun x => ?_) (hinv c)
      by_cases hx : x = active s
      · refine .inr ⟨fun ⟨w, hw⟩ => hpos _ _ (hx ▸ hw), ?_⟩
        rw [hx, leave_pos_same]
        exact hnone c
      · exact .inl (leave_pos_other s hx)
    | waits => exact hinv c
    | undecoded _ hpos =>
      exact seqInv_raiseFault _ (fun ⟨w, hw⟩ => hpos _ _ hw) ⟨(hinv c).busyOwned, (hinv c).insideBusy⟩
    | @faults i s₁ k hbegins hfault =>
      have hat := hbegins.at_active
      obtain ⟨cs, rfl⟩ := hbegins.eq_withHost
      refine seqInv_raiseFault k ?_ ⟨(hinv c).busyOwned, (hinv c).insideBusy⟩
      rintro ⟨w, hw⟩
      obtain hrun | ⟨hno, -⟩ := hat
      · rw [hw] at hrun
        injection hrun with hinstr hmicro
        subst hinstr
        simp [faultOf, ← hmicro] at hfault
      · exact hno _ _ hw
    | takes hbegins htakes =>
      have hat := hbegins.at_active
      obtain ⟨cs, rfl⟩ := hbegins.eq_withHost
      exact seqInv_takes hat htakes fun d => ⟨(hinv d).busyOwned, (hinv d).insideBusy⟩

/-- Settles O23. -/
theorem stepKeepsSeqInv : Obligations.StepKeepsSeqInv := by
  intro s t ch hhandlers hinv h
  obtain ⟨-, cs, n, hm⟩ := step_moves h
  exact seqInv_of_moves (s := { s with sched := cs, seed := n })
    ⟨hhandlers.lpIdle, hhandlers.lpRuns, hhandlers.hpIdle, hhandlers.hpRuns, hhandlers.mainPos⟩
    (fun d => ⟨(hinv d).busyOwned, (hinv d).insideBusy⟩) hm

end Sys2Proof.ChannelInvariants

/-! PROOFS. The ring of spec/40_fifo.md: how the indices and the words a queue holds change when it is written, published, taken from and
emptied (R33, R201 to R203, R207, R208). -/

namespace Sys2Proof.Ring

open Sys2Proof.Machine Sys2Proof.Safety

/-! ### Indices -/

/-- A remainder below two rounds. -/
theorem mod_eq_ite {a n : Nat} (h : a < 2 * n) : a % n = if a < n then a else a - n := by
  split
  · next hlt => exact Nat.mod_eq_of_lt hlt
  · next hge => rw [Nat.mod_eq_sub_mod (by omega), Nat.mod_eq_of_lt (by omega)]

theorem nextIndex_lt {g : Cfg} (i : Nat) (hcap : 2 ≤ g.capacity) : nextIndex g i < g.capacity :=
  Nat.mod_lt _ (by omega)

theorem nextIndex_eq {g : Cfg} {i : Nat} (hi : i < g.capacity) : nextIndex g i = if i + 1 = g.capacity then 0 else i + 1 := by
  unfold nextIndex
  rw [mod_eq_ite (by omega)]
  split_ifs <;> omega

theorem count_eq {g : Cfg} {f : Fifo} (hr : f.r < g.capacity) (hw : f.w < g.capacity) :
    f.count g = if f.r ≤ f.w then f.w - f.r else f.w + g.capacity - f.r := by
  unfold Fifo.count
  rw [mod_eq_ite (by omega)]
  split_ifs <;> omega

/-- The slot of the word `i` places behind the oldest. -/
theorem slot_eq {g : Cfg} {r i : Nat} (hr : r < g.capacity) (hi : i < g.capacity) :
    (r + i) % g.capacity = if r + i < g.capacity then r + i else r + i - g.capacity :=
  mod_eq_ite (by omega)

/-! ### How many words a queue holds (R33, R207.3, R208) -/

section Count

variable {g : Cfg} {f : Fifo} (hr : f.r < g.capacity) (hw : f.w < g.capacity)
include hr hw

theorem count_lt : f.count g < g.capacity := by
  rw [count_eq hr hw]
  split_ifs <;> omega

theorem isEmpty_iff_count : f.isEmpty = true ↔ f.count g = 0 := by
  rw [Machine.isEmpty_iff, count_eq hr hw]
  split_ifs <;> omega

theorem isFull_iff_count : f.isFull g = true ↔ f.count g = g.capacity - 1 := by
  rw [isFull_iff, count_eq hr hw, nextIndex_eq hw]
  split_ifs <;> omega

/-- The word after the newest one goes to the write index. -/
theorem slot_count : (f.r + f.count g) % g.capacity = f.w := by
  rw [slot_eq hr (count_lt hr hw), count_eq hr hw]
  split_ifs <;> omega

/-- No held word lies at the write index. -/
theorem slot_ne_write {i : Nat} (hi : i < f.count g) : (f.r + i) % g.capacity ≠ f.w := by
  have := count_lt hr hw
  rw [slot_eq hr (by omega)]
  rw [count_eq hr hw] at hi
  split_ifs at hi ⊢ <;> omega

theorem count_publish (hroom : nextIndex g f.w ≠ f.r) :
    ({ f with w := nextIndex g f.w } : Fifo).count g = f.count g + 1 := by
  have hnext := nextIndex_eq hw
  have hlt : nextIndex g f.w < g.capacity := by rw [hnext]; split_ifs <;> omega
  rw [count_eq (f := { f with w := nextIndex g f.w }) hr hlt, count_eq hr hw]
  dsimp only
  rw [hnext] at hroom ⊢
  split_ifs at hroom ⊢ <;> omega

theorem count_take (hne : f.r ≠ f.w) : f.count g = ({ f with r := nextIndex g f.r } : Fifo).count g + 1 := by
  have hnext := nextIndex_eq hr
  have hlt : nextIndex g f.r < g.capacity := by rw [hnext]; split_ifs <;> omega
  rw [count_eq (f := { f with r := nextIndex g f.r }) hlt hw, count_eq hr hw]
  dsimp only
  rw [hnext]
  split_ifs <;> omega

end Count

/-- Settles O13. -/
theorem emptyAndFullExclude : Obligations.EmptyAndFullExclude := by
  intro g f hcap hr hw
  have hempty := isEmpty_iff_count hr hw
  have hfull := isFull_iff_count hr hw
  have hlt := count_lt hr hw
  refine ⟨?_, by omega, hempty, hfull⟩
  rw [hempty, hfull]
  omega

/-! ### The words a queue holds (R207) -/

section Contents

variable {g : Cfg} {f : Fifo} (hr : f.r < g.capacity) (hw : f.w < g.capacity)
include hr hw

/-- A word written at the write index is not held yet (R202 s2). -/
theorem contents_write (v : Word) : ({ f with slot := f.slot.write f.w v } : Fifo).contents g = f.contents g := by
  have hcount : ({ f with slot := f.slot.write f.w v } : Fifo).count g = f.count g := rfl
  unfold Fifo.contents
  rw [hcount]
  refine List.map_congr_left fun i hi => ?_
  exact Memory.read_write_other v f.slot (slot_ne_write hr hw (List.mem_range.1 hi))

/-- Publishing appends the word at the write index (R202 s3). -/
theorem contents_publish (hroom : nextIndex g f.w ≠ f.r) :
    ({ f with w := nextIndex g f.w } : Fifo).contents g = f.contents g ++ [f.slot.read f.w] := by
  unfold Fifo.contents
  rw [count_publish hr hw hroom, List.range_succ, List.map_append, List.map_singleton]
  dsimp only
  rw [slot_count hr hw]

/-- Taking removes the oldest word, the one at the read index (R203 s3). -/
theorem contents_take (hne : f.r ≠ f.w) :
    f.contents g = f.slot.read f.r :: ({ f with r := nextIndex g f.r } : Fifo).contents g := by
  have hslot : ∀ i, (nextIndex g f.r + i) % g.capacity = (f.r + (i + 1)) % g.capacity := fun i => by
    rw [nextIndex, Nat.mod_add_mod, Nat.add_assoc, Nat.add_comm 1]
  unfold Fifo.contents
  rw [count_take hr hw hne, List.range_succ_eq_map, List.map_cons, List.map_map]
  dsimp only
  simp only [Nat.add_zero, Nat.mod_eq_of_lt hr, hslot, Function.comp_def, Nat.succ_eq_add_one]

end Contents

/-- A queue whose indices are equal holds nothing (R201, R208). -/
theorem contents_reset (g : Cfg) (f : Fifo) : ({ f with r := 0, w := 0 } : Fifo).contents g = [] := by
  simp [Fifo.contents, Fifo.count]

/-! ### A sound queue stays sound (R32, R100) -/

section QueueInv

variable {g : Cfg} {f : Fifo}

theorem queueInv_write {ww : Nat} (v : Word) (hww : ww < g.capacity) (hinv : QueueInv g f) :
    QueueInv g { f with slot := f.slot.write ww v } where
  readIndex := hinv.readIndex
  writeIndex := hinv.writeIndex
  canonical := Memory.write_wf hinv.canonical
  slots p hp := by
    obtain rfl | hold := Memory.mem_write hp
    · exact hww
    · exact hinv.slots p hold

theorem queueInv_indices {r w : Nat} (hr : r < g.capacity) (hw : w < g.capacity) (hinv : QueueInv g f) :
    QueueInv g { f with r := r, w := w } :=
  ⟨hr, hw, hinv.canonical, hinv.slots⟩

end QueueInv

/-- A legal configuration has at least two slots (R9). -/
theorem two_le_capacity {g : Cfg} (hok : g.ok = true) : 2 ≤ g.capacity := by
  simp only [Cfg.ok, Bool.and_eq_true, decide_eq_true_eq] at hok
  tauto

end Sys2Proof.Ring

/-! PROOFS. The FIFO invariant is kept by every step, in every interleaving (R116, R117), every step from it answers a next state (R451),
and the FIFO laws hold at every step (R207). -/

namespace Sys2Proof.FifoInvariant

open Sys2Proof.Machine Sys2Proof.Safety Sys2Proof.StepCases Sys2Proof.Invariants Sys2Proof.Ring

/-! ### What a command's step does to a queue -/

/-- The step of command `i` is microstep `a` of the enqueue of `v` on `q`: of FQ.ENQ, or on TXQ of FB.ENQ (R202, R369). -/
def Enqueues (i : Instr) (s : State) (q : Queue) (v : Word) (a : EnqAt) : Prop :=
  (i = .fqEnq q v ∧ a = enqAt (microOf s)) ∨
    (q = .txq ∧ ∃ idx, i = .fbEnq idx ∧ v = frameRead s idx.toNat (fbEnqAt (microOf s)).1 ∧
      a = (fbEnqAt (microOf s)).2)

/-- An effect is a microstep of an enqueue, the s3 of FQ.DEQ, or FQ.INIT, or it leaves the queues alone. -/
theorem takes_queue_cases {i : Instr} {s t : State} {e : Ending} (h : Takes i s t e) :
    (∃ q v a n, Enqueues i s q v a ∧ enqStep q v a s = some (t, n)) ∨
    (∃ q rr v, i = .fqDeq q ∧ active s = s.cfg.cons q ∧ microOf s = .deqS3 rr v ∧
      t = s.setFifo q { s.fifo q with r := nextIndex s.cfg rr }) ∨
    (∃ q, i = .fqInit q ∧ t = s.setFifo q { s.fifo q with r := 0, w := 0 }) ∨
    ∀ q, t.fifo q = s.fifo q := by
  cases h with
  | fqEnq _ hstep => exact .inl ⟨_, _, _, _, .inl ⟨rfl, rfl⟩, hstep⟩
  | fbEnq _ hstep => exact .inl ⟨_, _, _, _, .inr ⟨rfl, _, rfl, rfl, rfl⟩, hstep⟩
  | fqDeqTake hrole hm => exact .inr (.inl ⟨_, _, _, rfl, hrole, hm, rfl⟩)
  | fqInit => exact .inr (.inr (.inl ⟨_, rfl, rfl⟩))
  | @uInit _ ch => exact .inr (.inr (.inr fun q => (writeCtrl_fifo ch _ _ q).trans (setChan_fifo _ ch _ q)))
  | uTxwBegin => exact .inr (.inr (.inr (setChan_fifo _ _ _)))
  | uTxwPhase _ hphase =>
    obtain ⟨u, rfl⟩ := txwPhase_chanOnly hphase
    exact .inr (.inr (.inr (setChan_fifo _ _ _)))
  | uTxwEnd _ hphase =>
    obtain ⟨u, rfl⟩ := txwPhase_chanOnly hphase
    exact .inr (.inr (.inr (setChan_fifo _ _ _)))
  | @uRxw _ ch =>
    obtain ⟨u, hu⟩ := receiveWord_chanOnly ch s
    exact .inr (.inr (.inr (hu ▸ setChan_fifo _ _ _)))
  | dspPollReceive =>
    obtain ⟨u, hu⟩ := receiveWord_chanOnly s.cfg.rxCh s
    exact .inr (.inr (.inr (hu ▸ setChan_fifo _ _ _)))
  | dspPollFaulty =>
    obtain ⟨u, hu⟩ := receiveWord_chanOnly s.cfg.rxCh s
    exact .inr (.inr (.inr (hu ▸ setChan_fifo _ _ _)))
  | @regWr _ _ _ r =>
    refine .inr (.inr (.inr fun q => ?_))
    cases r with
    | ctrl ch => exact writeCtrl_fifo ch _ _ q
    | brg ch => exact setChan_fifo _ _ _ q
    | _ => rfl
  | _ => exact .inr (.inr (.inr fun _ => rfl))

/-! ### What a context has loaded inside an enqueue (R116, R117) -/

/-- What the active context has loaded inside the enqueue it steps is right. -/
theorem enqOk_of_enqueues {i : Instr} {s : State} {q : Queue} {v : Word} {a : EnqAt} (hpos : posOk s (active s))
    (hat : AtCommand i s) (h : Enqueues i s q v a) : enqOk s.cfg (s.fifo q) v a := by
  by_cases ha : a = .s1
  · rw [ha]
    trivial
  · obtain ⟨rfl, rfl⟩ | ⟨rfl, idx, rfl, rfl, rfl⟩ := h
    · have hm := eq_enq_of_enqAt ha
      have hrun := hat.running (hm ▸ nofun)
      rw [hm] at hrun
      simp only [posOk, hrun] at hpos
      exact hpos.2
    · have hm := eq_fbEnq_of_fbEnqAt ha
      have hrun := hat.running (hm ▸ nofun)
      rw [hm] at hrun
      simp only [posOk, hrun] at hpos
      exact hpos.2.2

/-- A microstep of an enqueue whose loads are right keeps the queue sound and the loads right (R202). -/
theorem enqStep_keeps {q : Queue} {v : Word} {a : EnqAt} {s t : State} {n : EnqNext} (hcap : 2 ≤ s.cfg.capacity)
    (hq : QueueInv s.cfg (s.fifo q)) (ha : enqOk s.cfg (s.fifo q) v a) (h : enqStep q v a s = some (t, n)) :
    QueueInv s.cfg (t.fifo q) ∧ ∀ b, n = .more b → enqOk s.cfg (t.fifo q) v b := by
  obtain ⟨-, rfl, ⟨-, rfl⟩ | ⟨hroom, rfl⟩⟩ | ⟨ww, x, rfl, hww, rfl, rfl⟩ | ⟨ww, rfl, rfl, rfl⟩ := enqStep_cases h
  · exact ⟨hq, nofun⟩
  · refine ⟨hq, ?_⟩
    rintro _ ⟨⟩
    exact ⟨rfl, rfl, hroom⟩
  · obtain ⟨rfl, rfl, hroom⟩ := ha
    rw [setFifo_fifo_same]
    refine ⟨queueInv_write x hww hq, ?_⟩
    rintro _ ⟨⟩
    exact ⟨rfl, Memory.read_write_same hq.canonical, hroom⟩
  · rw [setFifo_fifo_same]
    exact ⟨queueInv_indices hq.readIndex (nextIndex_lt ww hcap) hq, nofun⟩

theorem enqStep_fifo_other {q p : Queue} {v : Word} {a : EnqAt} {s t : State} {n : EnqNext}
    (h : enqStep q v a s = some (t, n)) (hp : p ≠ q) : t.fifo p = s.fifo p := by
  obtain ⟨-, rfl, -⟩ | ⟨ww, x, -, -, rfl, -⟩ | ⟨ww, -, rfl, -⟩ := enqStep_cases h
  · rfl
  · exact setFifo_fifo_other s _ hp
  · exact setFifo_fifo_other s _ hp

/-- What a consumer has loaded before s3 of FQ.DEQ is right (R203). -/
theorem deqS3_ok {s : State} {q : Queue} {rr : Nat} {v : Word} (hpos : posOk s (active s)) (hat : AtCommand (.fqDeq q) s)
    (hm : microOf s = .deqS3 rr v) :
    rr = (s.fifo q).r ∧ (s.fifo q).r ≠ (s.fifo q).w ∧ v = (s.fifo q).slot.read rr := by
  have hrun := hat.running (hm ▸ nofun)
  rw [hm] at hrun
  simp only [posOk, hrun] at hpos
  exact hpos.2

/-! ### The queues stay sound -/

theorem queueInv_takes {i : Instr} {s t : State} {e : Ending} (hok : s.cfg.ok = true)
    (hqueues : ∀ q, QueueInv s.cfg (s.fifo q)) (hpos : posOk s (active s)) (hat : AtCommand i s) (h : Takes i s t e)
    (p : Queue) : QueueInv s.cfg (t.fifo p) := by
  have hcap := two_le_capacity hok
  obtain ⟨q, v, a, n, henq, hstep⟩ | ⟨q, rr, v, -, -, -, rfl⟩ | ⟨q, -, rfl⟩ | hsame := takes_queue_cases h
  · by_cases hp : p = q
    · rw [hp]
      exact (enqStep_keeps hcap (hqueues q) (enqOk_of_enqueues hpos hat henq) hstep).1
    · rw [enqStep_fifo_other hstep hp]
      exact hqueues p
  · by_cases hp : p = q
    · rw [hp, setFifo_fifo_same]
      exact queueInv_indices (nextIndex_lt rr hcap) (hqueues q).writeIndex (hqueues q)
    · rw [setFifo_fifo_other s _ hp]
      exact hqueues p
  · by_cases hp : p = q
    · rw [hp, setFifo_fifo_same]
      exact queueInv_indices (by omega) (by omega) (hqueues q)
    · rw [setFifo_fifo_other s _ hp]
      exact hqueues p
  · rw [hsame p]
    exact hqueues p

/-! ### The loads of the active context -/

theorem posOk_none {s : State} {x : Ctx} (h : s.pos x = .none) : posOk s x := by
  simp [posOk, h]

/-- The end of a command leaves its context at nothing loaded; FQ.EMPTY of the drain goes on only with a queue that is not empty. -/
theorem posOk_complete {i : Instr} {res : Option Word} {s : State} (hhp : active s ≠ .hp)
    (hdeq : active s = .lp → i = .fqEmpty .txq → res = some 0 → s.txq.r ≠ s.txq.w) :
    posOk (complete i res s) (active s) := by
  cases hx : active s with
  | main => exact posOk_none (by simp [complete_main i res hx, State.pos])
  | hp => exact absurd hx hhp
  | lp =>
    cases hd : drainNext s.cfg.txCh i res with
    | none => exact posOk_none (by rw [complete_lp_returns hx hd, leave_pos_same])
    | some j =>
      rw [complete_lp_goes_on hx hd]
      unfold drainNext at hd
      split at hd
      · split at hd <;> cases hd
        next hzero => exact fun _ => hdeq hx rfl (by rw [hzero])
      · cases hd
        trivial
      · split at hd <;> cases hd
        trivial
      · cases hd

theorem frameRead_of_same {s t : State} (htable : t.table = s.table) (idx p : Nat) : frameRead t idx p = frameRead s idx p := by
  simp only [frameRead, entryAt, htable]

/-- The loads of a context look at its position, the configuration, the queues and the frame table. -/
theorem posOk_of_same {s t : State} {x : Ctx} (hpos : t.pos x = s.pos x) (hcfg : t.cfg = s.cfg)
    (hfifo : ∀ q, t.fifo q = s.fifo q) (htable : t.table = s.table) (h : posOk s x) : posOk t x := by
  have htxq : t.txq = s.txq := hfifo .txq
  simpa only [posOk, hpos, hcfg, hfifo, htxq, frameRead_of_same htable] using h

/-- A command that goes on with the next microstep of FQ.ENQ has its loads right. -/
theorem posOk_goOn_enq {s : State} {q : Queue} {v : Word} {a : EnqAt} (hrole : active s = s.cfg.prod q)
    (hload : enqOk s.cfg (s.fifo q) v a) : posOk (goOn (.fqEnq q v) (.enq a) s) (active s) := by
  simp only [posOk, goOn_pos_active, goOn_cfg, goOn_fifo]
  exact ⟨hrole, hload⟩

theorem posOk_goOn_fbEnq {s : State} {idx : BitVec 9} {p : Nat} {a : EnqAt} (hrole : active s = s.cfg.prod .txq)
    (hp : p < coreCount idx.toNat + 2) (hload : enqOk s.cfg s.txq (frameRead s idx.toNat p) a) :
    posOk (goOn (.fbEnq idx) (.fbEnq p a) s) (active s) := by
  simp only [posOk, goOn_pos_active, goOn_cfg, goOn_txq, frameRead_of_same (goOn_table (.fbEnq idx) (.fbEnq p a) s)]
  exact ⟨hrole, hp, hload⟩

/-- FB.ENQ goes on inside its context's role and inside the frame. -/
theorem fbEnq_place {s : State} {idx : BitVec 9} (hpos : posOk s (active s)) (hat : AtCommand (.fbEnq idx) s)
    (hrole : (∃ p a, microOf s = .fbEnq p a) ∨ active s = s.cfg.prod .txq) :
    active s = s.cfg.prod .txq ∧ (fbEnqAt (microOf s)).1 < coreCount idx.toNat + 2 := by
  cases hm : microOf s with
  | fbEnq p a =>
    have hrun := hat.running (hm ▸ nofun)
    rw [hm] at hrun
    simp only [posOk, hrun] at hpos
    exact ⟨hpos.1, hpos.2.1⟩
  | _ =>
    rw [hm] at hrole
    refine ⟨hrole.resolve_left (fun ⟨p, a, h⟩ => nomatch h), ?_⟩
    simp [fbEnqAt]

theorem enqStep_table {q : Queue} {v : Word} {a : EnqAt} {s t : State} {n : EnqNext} (h : enqStep q v a s = some (t, n)) :
    t.table = s.table := by
  obtain ⟨-, rfl, -⟩ | ⟨ww, x, -, -, rfl, -⟩ | ⟨ww, -, rfl, -⟩ := enqStep_cases h
  · rfl
  · exact setFifo_table _ _ _
  · exact setFifo_table _ _ _

/-- The steps of a command leave the active context's loads right. -/
theorem posOk_active {i : Instr} {s t : State} {e : Ending} (hok : s.cfg.ok = true)
    (hqueues : ∀ q, QueueInv s.cfg (s.fifo q)) (hpos : posOk s (active s)) (hat : AtCommand i s) (hhp : active s ≠ .hp)
    (h : Takes i s t e) : posOk (e.apply i t) (active t) := by
  have hcap := two_le_capacity hok
  have hhp' : active t ≠ .hp := h.active_eq ▸ hhp
  have hactive := h.active_eq
  have hcfg := h.cfg_eq
  cases h with
  | @fqEnq _ _ q v n hrole hstep =>
    cases n with
    | more a =>
      have hload := enqOk_of_enqueues hpos hat (.inl ⟨rfl, rfl⟩)
      refine posOk_goOn_enq (by rw [hactive, hcfg, hrole]) ?_
      rw [hcfg]
      exact (enqStep_keeps hcap (hqueues q) hload hstep).2 a rfl
    | _ => exact posOk_complete hhp' fun _ h => nomatch h
  | @fbEnq _ _ idx n hrole hstep =>
    obtain ⟨hprod, hp⟩ := fbEnq_place hpos hat hrole
    have hrole' : active t = t.cfg.prod .txq := by rw [hactive, hcfg, hprod]
    cases n with
    | more a =>
      have hload := enqOk_of_enqueues hpos hat (.inr ⟨rfl, idx, rfl, rfl, rfl⟩)
      refine posOk_goOn_fbEnq hrole' hp ?_
      rw [hcfg, frameRead_of_same (enqStep_table hstep)]
      exact (enqStep_keeps hcap (hqueues .txq) hload hstep).2 a rfl
    | _ =>
      dsimp only [fbEnqEnding]
      split
      · exact posOk_goOn_fbEnq hrole' (by omega) trivial
      · exact posOk_complete hhp' fun _ h => nomatch h
  | fqDeqLoad hrole hne =>
    simp only [Ending.apply, posOk, goOn_pos_active, goOn_cfg, goOn_fifo]
    exact ⟨hrole, trivial, hne⟩
  | @fqDeqRead _ q rr hrole hm =>
    have hrun := hat.running (hm ▸ nofun)
    rw [hm] at hrun
    simp only [posOk, hrun] at hpos
    simp only [Ending.apply, posOk, goOn_pos_active, goOn_cfg, goOn_fifo]
    exact ⟨hrole, hpos.2.1, hpos.2.2, trivial⟩
  | @fqEmptyLoad _ q =>
    cases q with
    | txq =>
      simp only [Ending.apply, posOk, goOn_pos_active, goOn_txq]
      exact fun _ => rfl
    | rxq => simp only [Ending.apply, posOk, goOn_pos_active]
  | @fqEmptyAnswer _ q a hm =>
    refine posOk_complete hhp' ?_
    rintro hlp ⟨⟩ hzero
    have hrun := hat.running (hm ▸ nofun)
    rw [hm] at hrun
    simp only [posOk, hrun] at hpos
    rw [← hpos hlp]
    rintro rfl
    simp [State.fifo, boolWord] at hzero
  | uTxwWait => exact hpos
  | uTxwPhase _ hphase =>
    obtain ⟨u, rfl⟩ := txwPhase_chanOnly hphase
    rw [hactive]
    exact posOk_of_same (setChan_pos _ _ _ _) hcfg (setChan_fifo _ _ _) (setChan_table _ _ _) hpos
  | fqFullLoad => simp only [Ending.apply, posOk, goOn_pos_active]
  | uTxwBegin => simp only [Ending.apply, posOk, goOn_pos_active]
  | dspPollAsk => simp only [Ending.apply, posOk, goOn_pos_active]
  | dspPollReceive => simp only [Ending.apply, posOk, goOn_pos_active]
  | answers hi => exact posOk_complete hhp' fun _ h => False.elim (by rw [h] at hi; exact hi)
  | _ => exact posOk_complete hhp' fun _ h => nomatch h

/-! ### The loads of the other contexts -/

/-- While MAIN is active no handler has a command (R461, R462). -/
theorem handler_pos_none {s : State} (hinv : HandlerInv s) (hmain : active s = .main) {y : Ctx} (hy : y ≠ .main) :
    s.pos y = .none := by
  obtain ⟨hhp, hlp⟩ := (active_main_iff s).1 hmain
  cases y with
  | main => exact absurd rfl hy
  | lp => exact hinv.lpIdle hlp
  | hp => exact hinv.hpIdle hhp

/-- Taking a word from a queue that is not empty leaves it not full (R202, R203). -/
theorem enqOk_take {g : Cfg} {f : Fifo} {v : Word} {a : EnqAt} (hq : QueueInv g f) (hne : f.r ≠ f.w) (h : enqOk g f v a) :
    enqOk g { f with r := nextIndex g f.r } v a := by
  have hroom : nextIndex g f.w ≠ nextIndex g f.r := by
    have hr := hq.readIndex
    have hw := hq.writeIndex
    rw [nextIndex_eq hr, nextIndex_eq hw]
    split_ifs <;> omega
  cases a with
  | s1 => trivial
  | s2 ww x =>
    obtain ⟨hww, hx, -⟩ := h
    exact ⟨hww, hx, hroom⟩
  | s3 ww =>
    obtain ⟨hww, hread, -⟩ := h
    exact ⟨hww, hread, hroom⟩

/-- The drain's s3 of FQ.DEQ leaves the loads of a producer in MAIN right; MAIN, not being the consumer, has none of FQ.DEQ (R206). -/
theorem posOk_main_take {s t : State} (hq : QueueInv s.cfg s.txq) (hne : s.txq.r ≠ s.txq.w) (hcons : s.cfg.cons .txq = .lp)
    (hpos : t.pos .main = s.pos .main) (hcfg : t.cfg = s.cfg) (htable : t.table = s.table)
    (htxq : t.txq = { s.txq with r := nextIndex s.cfg s.txq.r }) (hrxq : t.rxq = s.rxq) (h : posOk s .main) :
    posOk t .main := by
  have hfifo : t.fifo .rxq = s.fifo .rxq := hrxq
  have hfifoT : t.fifo .txq = { s.txq with r := nextIndex s.cfg s.txq.r } := htxq
  unfold posOk at h ⊢
  rw [hpos]
  split
  · next q v a heq =>
    rw [heq] at h
    obtain ⟨hprod, hload⟩ := h
    rw [hcfg]
    refine ⟨hprod, ?_⟩
    cases q with
    | txq => rw [hfifoT]; exact enqOk_take hq hne hload
    | rxq => rw [hfifo]; exact hload
  · next idx p a heq =>
    rw [heq] at h
    obtain ⟨hprod, hp, hload⟩ := h
    rw [hcfg, htxq, frameRead_of_same htable]
    exact ⟨hprod, hp, enqOk_take hq hne hload⟩
  · next q rr heq =>
    rw [heq] at h
    cases q with
    | txq => cases hcons.symm.trans h.1.symm
    | rxq => rw [hcfg, hfifo]; exact h
  · next q rr v heq =>
    rw [heq] at h
    cases q with
    | txq => cases hcons.symm.trans h.1.symm
    | rxq => rw [hcfg, hfifo]; exact h
  · exact nofun
  · exact nofun
  · trivial

theorem not_isDrainCommand_of {g : Cfg} {i : Instr} (hempty : i ≠ .fqEmpty .txq) (hdeq : i ≠ .fqDeq .txq)
    (htxw : ∀ w, i ≠ .uTxw g.txCh w) : ¬IsDrainCommand g i := by
  rintro (h | h | ⟨w, h⟩)
  · exact hempty h
  · exact hdeq h
  · exact htxw w h

/-- The commands of the drain leave the frame table alone, and of the queues TXQ's read index alone, in the s3 of FQ.DEQ (R470). -/
theorem posOk_other {i : Instr} {s t : State} {e : Ending} {y : Ctx} (hinv : FifoInv s) (hat : AtCommand i s)
    (hhp : active s ≠ .hp) (hdrain : active s = .lp → IsDrainCommand s.cfg i) (h : Takes i s t e) (hy : y ≠ active s) :
    posOk (e.apply i t) y := by
  have hpos : (e.apply i t).pos y = s.pos y := (apply_pos_other e i t (h.active_eq ▸ hy)).trans (h.pos_eq y)
  cases hx : active s with
  | hp => exact absurd hx hhp
  | main =>
    rw [hx] at hy
    exact posOk_none (hpos.trans (handler_pos_none hinv.handlers hx hy))
  | lp =>
    have hcfg : (e.apply i t).cfg = s.cfg := (apply_cfg e i t).trans h.cfg_eq
    cases y with
    | lp => exact absurd hx.symm hy
    | hp => exact posOk_none (hpos.trans (hinv.handlers.hpIdle ((active_lp_iff s).1 hx).1))
    | main =>
      have hi := hdrain hx
      have htable : (e.apply i t).table = s.table := by
        rw [apply_table]
        obtain ⟨htable, -⟩ | ⟨rfl, -⟩ := takes_table_cases h
        · exact htable
        · exact absurd hi (not_isDrainCommand_of nofun nofun nofun)
      obtain ⟨q, v, a, n, henq, -⟩ | ⟨q, rr, v, rfl, hcons, hm, rfl⟩ | ⟨q, rfl, -⟩ | hsame := takes_queue_cases h
      · obtain ⟨rfl, -⟩ | ⟨-, idx, rfl, -⟩ := henq
        · exact absurd hi (not_isDrainCommand_of nofun nofun nofun)
        · exact absurd hi (not_isDrainCommand_of nofun nofun nofun)
      · obtain rfl : q = .txq := by
          obtain h | h | ⟨w, h⟩ := hi <;> cases h
          rfl
        obtain ⟨rfl, hne, -⟩ := deqS3_ok (hinv.positions _) hat hm
        rw [hx] at hcons
        exact posOk_main_take (hinv.queues .txq) hne hcons.symm hpos hcfg htable (apply_fifo _ _ _ .txq)
          (apply_fifo _ _ _ .rxq) (hinv.positions .main)
      · exact absurd hi (not_isDrainCommand_of nofun nofun nofun)
      · exact posOk_of_same hpos hcfg (fun q => (apply_fifo e i t q).trans (hsame q)) htable (hinv.positions .main)

/-! ### Every step keeps the invariant -/

theorem fifoInv_takes {i : Instr} {s t : State} {e : Ending} (hinv : FifoInv s) (hat : AtCommand i s) (hhp : active s ≠ .hp)
    (hdrain : active s = .lp → IsDrainCommand s.cfg i) (h : Takes i s t e)
    (hhandlers : HandlerInv (e.apply i t)) : FifoInv (e.apply i t) where
  cfgOk := by rw [apply_cfg, h.cfg_eq, hinv.cfgOk]
  handlers := hhandlers
  queues q := by
    rw [apply_cfg, apply_fifo, h.cfg_eq]
    exact queueInv_takes hinv.cfgOk hinv.queues (hinv.positions _) hat h q
  positions y := by
    by_cases hy : y = active s
    · rw [hy, ← h.active_eq]
      exact posOk_active hinv.cfgOk hinv.queues (hinv.positions _) hat hhp h
    · exact posOk_other hinv hat hhp hdrain h hy

/-- A step that leaves the queues and the frame table alone, and a context where it was or at nothing loaded, keeps the invariant. -/
theorem fifoInv_of_same {s t : State} (hcfg : t.cfg = s.cfg) (hfifo : ∀ q, t.fifo q = s.fifo q) (htable : t.table = s.table)
    (hpos : ∀ x, t.pos x = s.pos x ∨ posOk t x) (hhandlers : HandlerInv t) (hinv : FifoInv s) : FifoInv t where
  cfgOk := hcfg ▸ hinv.cfgOk
  handlers := hhandlers
  queues q := by
    rw [hcfg, hfifo]
    exact hinv.queues q
  positions x := by
    obtain h | h := hpos x
    · exact posOk_of_same h hcfg hfifo htable (hinv.positions x)
    · exact h

theorem fifoInv_withHost {s : State} (cs : List Command) (hinv : FifoInv s) : FifoInv { s with host := cs } :=
  fifoInv_of_same (s := s) rfl (fun _ => rfl) rfl (fun _ => .inl rfl)
    (handlerInv_of_same (s := s) rfl rfl rfl (fun _ => rfl) hinv.handlers) hinv

/-- A context that leaves has nothing loaded. -/
theorem leave_pos_cases (x y : Ctx) (s : State) : (leave x s).pos y = s.pos y ∨ posOk (leave x s) y := by
  by_cases hy : y = x
  · rw [hy]
    exact .inr (posOk_none (leave_pos_same x s))
  · exact .inl (leave_pos_other s hy)

theorem fifoInv_leave {s t : State} (x : Ctx) (hcfg : t.cfg = s.cfg) (hfifo : ∀ q, t.fifo q = s.fifo q)
    (htable : t.table = s.table) (hpos : ∀ y, t.pos y = s.pos y) (hhandlers : HandlerInv (leave x t)) (hinv : FifoInv s) :
    FifoInv (leave x t) :=
  fifoInv_of_same ((leave_cfg x t).trans hcfg) (fun q => (leave_fifo x t q).trans (hfifo q)) ((leave_table x t).trans htable)
    (fun y => (leave_pos_cases x y t).imp_left fun h => h.trans (hpos y)) hhandlers hinv

theorem fifoInv_of_moves {s t : State} (hinv : FifoInv s) (h : Moves s t) : FifoInv t := by
  have hhandlers := handlerInv_of_moves hinv.handlers h
  cases h with
  | tick =>
    unfold tick at hhandlers ⊢
    split at hhandlers
    · next hen =>
      rw [if_pos hen]
      exact fifoInv_of_same (s := s) rfl (fun _ => rfl) rfl (fun _ => .inl rfl) hhandlers hinv
    · next hen =>
      rw [if_neg hen]
      exact hinv
  | line hline =>
    obtain ⟨u, rfl⟩ := line_chanOnly hline
    exact fifoInv_of_same (setChan_cfg _ _ _) (setChan_fifo _ _ _) (setChan_table _ _ _) (fun _ => .inl (setChan_pos _ _ _ _))
      hhandlers hinv
  | host => exact fifoInv_of_same (s := s) rfl (fun _ => rfl) rfl (fun _ => .inl rfl) hhandlers hinv
  | hpEntry =>
    refine fifoInv_of_same (s := s) rfl (fun _ => rfl) rfl (fun x => ?_) hhandlers hinv
    cases x with
    | hp => exact .inr trivial
    | _ => exact .inl rfl
  | lpEntry =>
    refine fifoInv_of_same (s := s) rfl (fun _ => rfl) rfl (fun x => ?_) hhandlers hinv
    cases x with
    | lp => exact .inr trivial
    | _ => exact .inl rfl
  | context hc =>
    cases hc with
    | returns => exact fifoInv_leave _ rfl (fun _ => rfl) rfl (fun _ => rfl) hhandlers hinv
    | waits => exact hinv
    | undecoded => exact fifoInv_leave (s := s) _ rfl (fun _ => rfl) rfl (fun _ => rfl) hhandlers hinv
    | faults hbegins =>
      obtain ⟨cs, rfl⟩ := hbegins.eq_withHost
      exact fifoInv_leave (s := s) _ rfl (fun _ => rfl) rfl (fun _ => rfl) hhandlers hinv
    | takes hbegins htakes =>
      obtain ⟨hhp, hdrain⟩ := begins_context hinv.handlers hbegins
      have hat := hbegins.at_active
      obtain ⟨cs, rfl⟩ := hbegins.eq_withHost
      exact fifoInv_takes (fifoInv_withHost cs hinv) hat hhp hdrain htakes hhandlers

/-- Taking a choice from the inputs keeps the invariant. -/
theorem fifoInv_withInputs {s : State} (cs : List Choice) (n : Nat) (hinv : FifoInv s) :
    FifoInv { s with sched := cs, seed := n } :=
  fifoInv_of_same (s := s) rfl (fun _ => rfl) rfl (fun _ => .inl rfl)
    (handlerInv_of_same (s := s) rfl rfl rfl (fun _ => rfl) hinv.handlers) hinv

/-- Settles O14. -/
theorem stepKeepsFifoInv : Obligations.StepKeepsFifoInv := by
  intro s t hinv h
  exact step_keeps (P := FifoInv) (fun cs n => fifoInv_withInputs cs n) fifoInv_of_moves hinv h

/-! ### Every step answers a next state (R451) -/

/-- A context whose loads are right names slots that exist. -/
theorem not_slotMissing {i : Instr} {s : State} (hinv : FifoInv s) (hat : AtCommand i s) : ¬SlotMissing i s := by
  intro hslot
  have hpos := hinv.positions (active s)
  cases i with
  | fqEnq q v =>
    obtain ⟨ww, x, hm, hww⟩ := hslot
    have hrun := hat.running (hm ▸ nofun)
    rw [hm] at hrun
    simp only [posOk, hrun] at hpos
    obtain ⟨-, rfl, -⟩ := hpos
    exact hww (hinv.queues q).writeIndex
  | fqDeq q =>
    obtain ⟨rr, hm, hrr⟩ := hslot
    have hrun := hat.running (hm ▸ nofun)
    rw [hm] at hrun
    simp only [posOk, hrun] at hpos
    obtain ⟨-, rfl, -⟩ := hpos
    exact hrr (hinv.queues q).readIndex
  | fbEnq idx =>
    obtain ⟨p, ww, x, hm, hww⟩ := hslot
    have hrun := hat.running (hm ▸ nofun)
    rw [hm] at hrun
    simp only [posOk, hrun] at hpos
    obtain ⟨-, -, rfl, -⟩ := hpos
    exact hww (hinv.queues .txq).writeIndex
  | _ => exact False.elim hslot

theorem exec_answers {i : Instr} {s : State} (hinv : FifoInv s) (hat : AtCommand i s) : ∃ t, exec i s = .next t := by
  have ho := exec_outcome i s
  generalize exec i s = o at ho ⊢
  cases ho with
  | faults => exact ⟨_, rfl⟩
  | takes => exact ⟨_, rfl⟩
  | stops _ hslot => exact absurd hslot (not_slotMissing hinv hat)

theorem contextStep_answers {s : State} (hinv : FifoInv s) : ∃ t, contextStep s = .next t := by
  obtain ⟨i, m, hpos, hs⟩ | ⟨hpos, hmain, hs⟩ | ⟨-, -, hs⟩ := contextStep_cases s
  · rw [hs]
    exact exec_answers hinv (Begins.inProgress hpos).at_active
  · rw [hs, nextCommand]
    split
    · exact ⟨_, rfl⟩
    · next c cs hhost =>
      unfold beginCommand
      split
      · next i hdec => exact exec_answers (fifoInv_withHost cs hinv) (Begins.fromHost hmain hpos hhost hdec).at_active
      · exact ⟨_, rfl⟩
  · exact ⟨_, hs⟩

theorem agentStep_answers (c : Choice) {s : State} (hinv : FifoInv s) : ∃ t, agentStep c s = .next t := by
  cases c with
  | proc =>
    obtain ⟨-, hs⟩ | ⟨-, -, hs⟩ | ⟨-, -, hs⟩ := processorStep_cases s
    · exact ⟨_, hs⟩
    · exact ⟨_, hs⟩
    · obtain ⟨t, ht⟩ := contextStep_answers hinv
      exact ⟨t, hs.trans ht⟩
  | _ => exact ⟨_, rfl⟩

/-- Settles O16: no agent's step is refused under a legal configuration, and no context names a slot that does not exist. -/
theorem stepAlwaysAnswersNext : Obligations.StepAlwaysAnswersNext := by
  intro s hinv
  obtain ⟨cs, n, hs⟩ := takeChoice_state s
  obtain ⟨t, ht⟩ := agentStep_answers (takeChoice s).1 (fifoInv_withInputs cs n hinv)
  exact ⟨t, by rw [step, if_pos hinv.cfgOk, hs, ht]⟩

/-! ### The FIFO laws (R207) -/

/-- A microstep of an enqueue whose loads are right leaves the words held as they were, but for s3, which appends its word. -/
theorem contents_enqStep {q : Queue} {v : Word} {a : EnqAt} {s t : State} {n : EnqNext} (hq : QueueInv s.cfg (s.fifo q))
    (ha : enqOk s.cfg (s.fifo q) v a) (h : enqStep q v a s = some (t, n)) :
    (t.fifo q).contents s.cfg = (s.fifo q).contents s.cfg ∨
      ((t.fifo q).contents s.cfg = (s.fifo q).contents s.cfg ++ [v] ∧ ∃ ww, a = .s3 ww) := by
  obtain ⟨-, rfl, -⟩ | ⟨ww, x, rfl, -, rfl, -⟩ | ⟨ww, rfl, rfl, -⟩ := enqStep_cases h
  · exact .inl rfl
  · obtain ⟨rfl, -, -⟩ := ha
    rw [setFifo_fifo_same]
    exact .inl (contents_write hq.readIndex hq.writeIndex x)
  · obtain ⟨rfl, rfl, hroom⟩ := ha
    rw [setFifo_fifo_same]
    exact .inr ⟨contents_publish hq.readIndex hq.writeIndex hroom, _, rfl⟩

/-- At s3 of an enqueue the active context's position says so. -/
theorem pos_of_enqueues_s3 {i : Instr} {s : State} {q : Queue} {v : Word} {ww : Nat} (hat : AtCommand i s)
    (h : Enqueues i s q v (.s3 ww)) :
    s.pos (active s) = .run (.fqEnq q v) (.enq (.s3 ww)) ∨
      ∃ idx p, q = .txq ∧ s.pos (active s) = .run (.fbEnq idx) (.fbEnq p (.s3 ww)) ∧ v = frameRead s idx.toNat p := by
  obtain ⟨rfl, ha⟩ | ⟨hq, idx, rfl, hv, ha⟩ := h
  · have hm := eq_enq_of_enqAt (m := microOf s) (ha ▸ nofun)
    have hrun := hat.running (hm ▸ nofun)
    rw [hm, ← ha] at hrun
    exact .inl hrun
  · have hm := eq_fbEnq_of_fbEnqAt (m := microOf s) (ha ▸ nofun)
    have hrun := hat.running (hm ▸ nofun)
    rw [hm, ← ha] at hrun
    exact .inr ⟨idx, _, hq, hrun, hv⟩

/-- Settles O15: of the effects on a queue, the s2 of an enqueue writes where no held word lies, its s3 appends the word, the s3 of
FQ.DEQ takes the oldest, and FQ.INIT empties the queue. -/
theorem fifoLawsHoldAtEveryStep : Obligations.FifoLawsHoldAtEveryStep := by
  intro s t p hinv h
  obtain ⟨-, cs, n, hm⟩ := step_moves h
  obtain ⟨i, s₁, u, e, hbegins, htakes, rfl⟩ | ⟨hcfg, hfifo, -⟩ := moves_takes_or_keeps hm
  · have hat := hbegins.at_active
    rw [apply_fifo, apply_cfg, htakes.cfg_eq]
    obtain ⟨hs, hsinv⟩ : (∃ hs, s₁ = { s with sched := cs, seed := n, host := hs }) ∧ FifoInv s₁ := by
      obtain ⟨hs, rfl⟩ := hbegins.eq_withHost
      exact ⟨⟨hs, rfl⟩, fifoInv_withHost hs (fifoInv_withInputs cs n hinv)⟩
    have hpos := hsinv.positions (active s₁)
    have hcases := takes_queue_cases htakes
    by_cases hsame : u.fifo p = s₁.fifo p
    · left
      obtain ⟨hs, rfl⟩ := hs
      rw [hsame]
      rfl
    · obtain ⟨q, v, a, n, henq, hstep⟩ | ⟨q, rr, v, rfl, -, hmicro, rfl⟩ | ⟨q, rfl, rfl⟩ | hnone := hcases
      · obtain rfl : p = q := by
          by_contra hp
          exact hsame (enqStep_fifo_other hstep hp)
        have hlaw := contents_enqStep (hsinv.queues p) (enqOk_of_enqueues hpos hat henq) hstep
        obtain ⟨hs, rfl⟩ := hs
        obtain hkeep | ⟨happend, ww, rfl⟩ := hlaw
        · exact .inl hkeep
        · refine .inr (.inl ⟨v, happend, ?_⟩)
          obtain hrun | ⟨idx, k, hq, hrun, hv⟩ := pos_of_enqueues_s3 hat henq
          · exact .inl ⟨ww, hrun⟩
          · exact .inr ⟨idx, k, ww, hq, hrun, hv⟩
      · obtain rfl : p = q := by
          by_contra hp
          exact hsame (setFifo_fifo_other s₁ _ hp)
        obtain ⟨rfl, hne, rfl⟩ := deqS3_ok hpos hat hmicro
        have hrun := hat.running (hmicro ▸ nofun)
        rw [hmicro] at hrun
        have htake := contents_take (hsinv.queues p).readIndex (hsinv.queues p).writeIndex hne
        rw [setFifo_fifo_same]
        obtain ⟨hs, rfl⟩ := hs
        exact .inr (.inr (.inl ⟨_, _, htake, hrun⟩))
      · obtain rfl : p = q := by
          by_contra hp
          exact hsame (setFifo_fifo_other s₁ _ hp)
        refine .inr (.inr (.inr ⟨?_, ?_⟩))
        · rw [setFifo_fifo_same]
          exact contents_reset _ _
        · cases hbegins with
          | inProgress hrun => exact .inl ⟨_, hrun⟩
          | fromHost _ _ hhost hdec => exact .inr ⟨_, _, hhost, hdec⟩
      · exact absurd (hnone p) hsame
  · left
    rw [hcfg, hfifo]
    rfl

end Sys2Proof.FifoInvariant

/-! PROOFS. The faults commands raise (R153, R206, R366 to R369, R401, R402), the register port (R34, R36, R58, R70, R103, R401, R403), the
checksum engine (R330 to R335) and FB.BUILD (R365), for an idle MAIN where the rule is about MAIN. -/

namespace Sys2Proof.MainCommands

open Sys2Proof.Machine Sys2Proof.Safety Sys2Proof.StepCases Sys2Proof.Invariants Sys2Proof.FifoCommands
  Sys2Proof.FrameBuilder

/-! ### How a command of an idle MAIN ends -/

/-- A fault of an idle MAIN is recorded in ERR, and nothing else changes (R451). -/
theorem exec_fault_mainIdle {i : Instr} {s : State} {k : FaultCode} (hidle : MainIdle s) (hfault : faultOf i s = some k) :
    exec i s = .next { s with err := recordFault k s.err } := by
  obtain ⟨hactive, hpos⟩ := hidle
  rw [exec_of_faultOf hfault, raised, raiseFault_main k hactive, ← hpos]

/-- A command of an idle MAIN that ends in its one step without a result leaves its effect. -/
theorem done_none_mainIdle {s : State} (i : Instr) (hidle : MainIdle s) : done i none s = .next s :=
  congrArg Host.Outcome.next (complete_mainIdle i none hidle)

/-! ### Faults -/

/-- Settles O11: the role check comes first in FQ.ENQ and FQ.DEQ, and after the checks of the table in FB.ENQ. -/
theorem wrongContextRaisesSpscViolation : Obligations.WrongContextRaisesSpscViolation := by
  intro s
  refine ⟨fun q v hrole => ?_, fun q hrole => ?_, fun hrole hm hbuilt idx hidx => ?_⟩
  · exact exec_of_faultOf (i := .fqEnq q v) (if_pos hrole)
  · exact exec_of_faultOf (i := .fqDeq q) (if_pos hrole)
  · have hin : indexOk s idx = true := (indexOk_iff s idx).2 hidx
    have hfault : faultOf (.fbEnq idx) s = some .spscViolation := by
      simp [faultOf, hm, fbEnqFault, frameFault, hin, hbuilt, hrole]
    exact exec_of_faultOf hfault

/-- Settles O18: every command of format C looks first whether its channel is present. -/
theorem absentChannelRaisesNoChannel : Obligations.AbsentChannelRaisesNoChannel := by
  intro s i ch hidle hch habsent
  have hpres : s.cfg.present ch = false := by simpa [Cfg.present] using habsent
  have hm : microOf s = .start := microOf_main_none hidle.1 hidle.2
  refine exec_fault_mainIdle (k := .noChannel) hidle ?_
  cases i <;> cases hch <;> simp [faultOf, hpres, hm]

theorem frameFault_outOfRange {s : State} {inRange : Bool} (h : ¬inRange = true) : frameFault s inRange = some .frameRange := by
  simp [frameFault, h]

theorem frameFault_notBuilt {s : State} {inRange : Bool} (h : inRange = true) (hbuilt : s.built = false) :
    frameFault s inRange = some .tableNotBuilt := by
  simp [frameFault, h, hbuilt]

/-- The frame commands that name an index only. -/
theorem faultOf_frame {s : State} {idx : BitVec 9} {k : FaultCode} (hm : microOf s = .start)
    (hfault : frameFault s (indexOk s idx) = some k) :
    ∀ i ∈ [Instr.fbLen idx, .fbCk idx, .fbEnq idx], faultOf i s = some k := by
  simp [faultOf, fbEnqFault, hm, hfault]

/-- Settles O37: the range check comes before BUILT (R456). -/
theorem frameFaults : Obligations.FrameFaults := by
  intro s idx wire hidle
  have hm : microOf s = .start := microOf_main_none hidle.1 hidle.2
  have hlen : coreCount idx.toNat + 2 = if idx = 0 then 7 else 6 := by
    rw [coreCount_of_index]
    split <;> rfl
  have hwire := wireOk_iff s idx wire
  rw [hlen] at hwire
  refine ⟨fun hout i hi => ?_, fun hout => ?_, fun hin hbuilt => ⟨fun i hi => ?_, fun hpos => ?_⟩⟩
  · have hnot : ¬indexOk s idx = true := fun h => absurd ((indexOk_iff s idx).1 h) (by omega)
    obtain rfl | hi := List.mem_cons.1 hi
    · exact exec_fault_mainIdle (k := .frameRange) hidle
        (frameFault_outOfRange fun h => absurd (hwire.1 h).1 (by omega))
    · exact exec_fault_mainIdle hidle (faultOf_frame hm (frameFault_outOfRange hnot) i hi)
  · exact exec_fault_mainIdle (k := .frameRange) hidle
      (frameFault_outOfRange fun h => absurd (hwire.1 h).2 (by omega))
  · exact exec_fault_mainIdle hidle (faultOf_frame hm (frameFault_notBuilt ((indexOk_iff s idx).2 hin) hbuilt) i hi)
  · exact exec_fault_mainIdle (k := .tableNotBuilt) hidle (frameFault_notBuilt (hwire.2 ⟨hin, hpos⟩) hbuilt)

/-! ### The register map (R103) -/

/-- The addresses that are there whatever NUM_CH is. -/
def baseMap : List (Byte × Reg) :=
  [(0x00, .ctrl .ch0), (0x01, .stat .ch0), (0x02, .brg .ch0), (0x10, .out), (0x11, .outdir), (0x12, .intctl),
    (0x14, .hist0), (0x15, .hist1), (0x16, .hist2), (0x17, .hist3), (0x18, .ckacc), (0x1F, .err), (0x20, .txqr),
    (0x21, .txqw), (0x22, .rxqr), (0x23, .rxqw), (0x24, .fbstat)]

/-- The addresses of channel 1. -/
def chan1Map : List (Byte × Reg) :=
  [(0x08, .ctrl .ch1), (0x09, .stat .ch1), (0x0A, .brg .ch1)]

theorem regAt_baseMap (g : Cfg) : ∀ row ∈ baseMap, regAt g row.1 = some row.2 := by
  simp [baseMap, regAt]

theorem regAt_chan1Map (g : Cfg) : ∀ row ∈ chan1Map, regAt g row.1 = ifPresent g .ch1 row.2 := by
  simp [chan1Map, regAt]

theorem regAt_reserved {g : Cfg} {a : Byte} (h : a ∉ (baseMap ++ chan1Map).map Prod.fst) : regAt g a = none := by
  unfold regAt
  split
  case h_21 => rfl
  all_goals exact absurd (by simp [baseMap, chan1Map, ← BitVec.toNat_inj, *]) h

theorem ifPresent_two {g : Cfg} (h : g.numCh = 2) (ch : Chan) (r : Reg) : ifPresent g ch r = some r := by
  cases ch <;> simp [ifPresent, Cfg.present, Chan.num, h]

theorem ifPresent_one {g : Cfg} (h : g.numCh = 1) (r : Reg) : ifPresent g .ch1 r = none := by
  simp [ifPresent, Cfg.present, Chan.num, h]

/-- REG.RD of an idle MAIN answers the register at a mapped address (R401). -/
theorem exec_regRd_mapped {s : State} {a : Byte} {r : Reg} (hidle : MainIdle s) (hreg : regAt s.cfg a = some r) :
    exec (.regRd a) s = .next { s with result := readReg s r } := by
  rw [← done_some_mainIdle (.regRd a) _ hidle]
  simp [exec, execRegRd, hreg]

/-- REG.WR of an idle MAIN writes a writable register at a mapped address (R402, R403). -/
theorem exec_regWr_mapped {s : State} {a : Byte} {v : Word} {r : Reg} (hreg : regAt s.cfg a = some r)
    (hw : writable r = true) (hidle : MainIdle (writeReg s v r)) : exec (.regWr a v) s = .next (writeReg s v r) := by
  rw [← done_none_mainIdle (.regWr a v) hidle]
  simp [exec, execRegWr, hreg, hw]

theorem packBits_singleton (b : Bool) : packBits [b] = if b then 0x0001 else 0x0000 := by
  cases b <;> rfl

/-- Settles O41: the values listed are those of the map's registers. -/
theorem regRdAnswersTheRegister : Obligations.RegRdAnswersTheRegister := by
  intro s hidle
  constructor
  · intro p hp
    have hmap : p ∈ baseMap.map fun row => (row.1, readReg s row.2) := by
      rw [← packBits_singleton] at hp
      exact hp
    obtain ⟨row, hrow, rfl⟩ := List.mem_map.1 hmap
    exact exec_regRd_mapped hidle (regAt_baseMap s.cfg row hrow)
  · intro hnum p hp
    have hmap : p ∈ chan1Map.map fun row => (row.1, readReg s row.2) := hp
    obtain ⟨row, hrow, rfl⟩ := List.mem_map.1 hmap
    exact exec_regRd_mapped hidle ((regAt_chan1Map s.cfg row hrow).trans (ifPresent_two hnum _ _))

/-- Settles O43: outside the map both commands raise REG_ADDR, and a write where the map is read-only REG_RO. -/
theorem registerPortFaults : Obligations.RegisterPortFaults := by
  intro s a v hidle
  constructor
  · intro hunmapped
    have hnone : regAt s.cfg a = none := by
      obtain hout | ⟨hnum, hin⟩ := hunmapped
      · exact regAt_reserved fun h => hout (by simp [baseMap, chan1Map] at h ⊢; tauto)
      · have hmap : a ∈ chan1Map.map Prod.fst := hin
        obtain ⟨row, hrow, rfl⟩ := List.mem_map.1 hmap
        exact (regAt_chan1Map s.cfg row hrow).trans (ifPresent_one hnum _)
    exact ⟨exec_fault_mainIdle (k := .regAddr) hidle (by simp [faultOf, hnone]),
      exec_fault_mainIdle (k := .regAddr) hidle (by simp [faultOf, hnone])⟩
  · intro hro
    have hreg : ∃ r, regAt s.cfg a = some r ∧ writable r = false := by
      obtain hin | ⟨hnum, rfl⟩ := hro
      · have hmap : a ∈ (baseMap.filter fun row => !writable row.2).map Prod.fst := hin
        obtain ⟨row, hrow, rfl⟩ := List.mem_map.1 hmap
        obtain ⟨hbase, hw⟩ := List.mem_filter.1 hrow
        exact ⟨row.2, regAt_baseMap s.cfg row hbase, by simpa using hw⟩
      · exact ⟨.stat .ch1, (regAt_chan1Map s.cfg (0x09, .stat .ch1) (by simp [chan1Map])).trans (ifPresent_two hnum _ _), rfl⟩
    obtain ⟨r, hreg, hw⟩ := hreg
    exact exec_fault_mainIdle (k := .regRo) hidle (by simp [faultOf, hreg, hw])

/-- The addresses of BRG in the register map (R103). -/
def brgAddr : Chan → Byte
  | .ch0 => 0x02
  | .ch1 => 0x0A

theorem regAt_brgAddr {g : Cfg} {ch : Chan} (hpres : g.present ch = true) : regAt g (brgAddr ch) = some (.brg ch) := by
  cases ch with
  | ch0 => rfl
  | ch1 => simp [brgAddr, regAt, ifPresent, hpres]

theorem mainIdle_setChan {s : State} (ch : Chan) (u : Channel) (hidle : MainIdle s) : MainIdle (s.setChan ch u) := by
  obtain ⟨hactive, hpos⟩ := hidle
  exact ⟨by rw [active_setChan, hactive], by rw [setChan_posMain, hpos]⟩

/-- Settles O45: the three registers beside CTRL that REG.WR may write. -/
theorem regWrOtherRegisters : Obligations.RegWrOtherRegisters := by
  intro s v hidle
  refine ⟨fun ch hpres => ?_, ?_, ?_⟩
  · exact exec_regWr_mapped (a := brgAddr ch) (regAt_brgAddr hpres) rfl (mainIdle_setChan ch _ hidle)
  · have hdir : v.setWidth 12 = v.extractLsb' 0 12 := by
      ext k hk
      simp
    rw [hdir]
    exact exec_regWr_mapped (a := 0x11) rfl rfl hidle
  · exact exec_regWr_mapped (a := 0x12) rfl rfl hidle

/-! ### The bits of the register words (R34, R36, R58, R70) -/

/-- A register word has its bits in their order, bit 0 first, and 0 above them (R11). -/
theorem packBits_getLsbD (bs : List Bool) (k : Nat) : (packBits bs).getLsbD k = (decide (k < 16) && bs.getD k false) := by
  induction bs generalizing k with
  | nil => simp [packBits]
  | cons b bs ih =>
    have hbit : (if b then 1 else 0 : Word).getLsbD k = (decide (k = 0) && b) := by
      cases b <;> cases k <;> simp
    rw [packBits, BitVec.getLsbD_or, BitVec.getLsbD_shiftLeft, hbit]
    cases k with
    | zero => simp
    | succ k =>
      rw [ih]
      by_cases hk : k + 1 < 16
      · simp [hk, show k < 16 by omega]
      · simp [hk]

/-- A word of at most sixteen bits. -/
theorem packBits_getLsbD_of_length {bs : List Bool} (hlen : bs.length ≤ 16) (k : Nat) :
    (packBits bs).getLsbD k = bs.getD k false := by
  rw [packBits_getLsbD]
  by_cases hk : k < 16
  · simp [hk]
  · simp [List.getElem?_eq_none (show bs.length ≤ k by omega)]

theorem rx9_eq (u : Channel) :
    u.rx9 = (u.ctrl.nine && (u.rxb.head?.map fun e => e.sym.getLsbD 8).getD false) := by
  unfold Channel.rx9
  split
  · next h => simp [h]
  · next e es h =>
    cases hn : u.ctrl.nine <;> simp [symbolInMode, hn, h]

theorem ferr_eq (u : Channel) : u.ferr = (u.rxb.head?.map RxEntry.ferr).getD false := by
  unfold Channel.ferr
  split <;> simp [*]

/-- Settles O42: the four words are their bits packed; FAULTED stands above CODE. -/
theorem registerWordsHaveTheirBits : Obligations.RegisterWordsHaveTheirBits := by
  refine ⟨fun c k => ?ctrl, fun u k => ?stat, fun c k => ?intctl, fun e => ?err⟩
  case ctrl => exact packBits_getLsbD_of_length (by simp) k
  case stat =>
    have hrxav : u.rxav = decide (u.rxb ≠ []) := by cases h : u.rxb <;> simp [Channel.rxav, h]
    have hbusy : u.busy = decide (u.seq.phase ≠ .idle) := by rw [Bool.eq_iff_iff]; simp [Channel.busy]
    rw [Channel.stat, packBits_getLsbD_of_length (by simp), hrxav, hbusy, rx9_eq, ferr_eq]
    rfl
  case intctl => exact packBits_getLsbD_of_length (by simp) k
  case err =>
    have hfaulted : ∀ k, (if e.faulted then 0x0100 else 0 : Word).getLsbD k = (decide (k = 8) && e.faulted) := by
      intro k
      cases e.faulted
      · simp
      · by_cases hk : k = 8
        · subst hk; decide
        · have : (0x0100 : Word) = BitVec.twoPow 16 8 := by decide
          simp [this, hk, Ne.symm hk]
    have hbits : ∀ k, e.toWord.getLsbD k = (e.code.getLsbD k || (decide (k = 8) && e.faulted)) := by
      intro k
      rw [ErrReg.toWord, BitVec.getLsbD_or, hfaulted, BitVec.getLsbD_setWidth]
      by_cases hk : k < 16
      · simp [hk]
      · simp [BitVec.getLsbD_of_ge e.code k (by omega), hk]
    refine ⟨?_, ?_, fun k hk => ?_⟩
    · ext k hk
      simp [hbits, hk, show k ≠ 8 by omega]
    · rw [hbits, BitVec.getLsbD_of_ge e.code 8 (by omega)]
      simp
    · rw [hbits, BitVec.getLsbD_of_ge e.code k (by omega)]
      simp [show k ≠ 8 by omega]

/-! ### The checksum engine (R330 to R335) -/

/-- The position of the `k`-th input bit (R330). -/
def crcIndex (g : Cfg) (k : Nat) : Nat := if g.crcRefin then k else g.crcInBits - 1 - k

theorem crcOrder_eq (g : Cfg) : crcOrder g = (List.range g.crcInBits).map (crcIndex g) := by
  unfold crcOrder crcIndex
  cases g.crcRefin with
  | true => simp
  | false =>
    refine List.ext_getElem (by simp) fun k h₁ h₂ => ?_
    simp [List.getElem_reverse]

/-- The register after the first `k` input bits of `w` (R330). -/
def crcAfter (g : Cfg) (acc w : Word) : Nat → Word
  | 0 => acc
  | k + 1 => crcBit g (crcAfter g acc w k) (w.getLsbD (crcIndex g k))

/-- A word is its input bits shifted in one by one. -/
theorem crcStep_eq_crcAfter (g : Cfg) (acc w : Word) : crcStep g acc w = crcAfter g acc w g.crcInBits := by
  have hfirst : ∀ n, ((List.range n).map (crcIndex g)).foldl (fun a i => crcBit g a (w.getLsbD i)) acc =
      crcAfter g acc w n := by
    intro n
    induction n with
    | zero => rfl
    | succ n ih => simp only [List.range_succ, List.map_append, List.foldl_append, ih, List.map_cons, List.map_nil,
        List.foldl_cons, List.foldl_nil, crcAfter]
  rw [crcStep, crcOrder_eq, hfirst]

/-- One input bit: the polynomial is taken in when the bit differs from the register's top bit. -/
theorem crcBit_eq (g : Cfg) (acc : Word) (b : Bool) :
    crcBit g acc b = (acc <<< 1) ^^^ (if b = acc.getLsbD 15 then 0 else g.crcPoly) := by
  cases b <;> cases h : acc.getLsbD 15 <;> simp only [crcBit, h] <;> rfl

/-- reflect16 turns the register end for end (R331). -/
theorem reflect16_getLsbD (a : Word) {i : Nat} (hi : i < 16) : (reflect16 a).getLsbD i = a.getLsbD (15 - i) := by
  rw [reflect16, packBits_getLsbD_of_length (by simp)]
  simp [hi]

theorem exec_ckInit_mainIdle {s : State} (hidle : MainIdle s) : exec .ckInit s = .next { s with ckAcc := s.cfg.crcInit } :=
  done_none_mainIdle (s := { s with ckAcc := s.cfg.crcInit }) .ckInit hidle

theorem exec_ckUpd_mainIdle {s : State} (w : Word) (hidle : MainIdle s) :
    exec (.ckUpd w) s = .next { s with ckAcc := crcStep s.cfg s.ckAcc w } :=
  done_none_mainIdle (s := { s with ckAcc := crcStep s.cfg s.ckAcc w }) (.ckUpd w) hidle

theorem exec_ckRd_mainIdle {s : State} (hidle : MainIdle s) :
    exec .ckRd s = .next { s with result := crcFinal s.cfg s.ckAcc } :=
  done_some_mainIdle .ckRd _ hidle

/-- Settles O33. -/
theorem checksumCommandsTakeEffect : Obligations.ChecksumCommandsTakeEffect := by
  intro s w hidle
  refine ⟨exec_ckInit_mainIdle hidle, ⟨crcAfter s.cfg s.ckAcc w, rfl, fun k _ => crcBit_eq _ _ _, ?_⟩,
    ⟨if s.cfg.crcRefout then reflect16 s.ckAcc else s.ckAcc, fun i hi => ?_, exec_ckRd_mainIdle hidle⟩⟩
  · rw [exec_ckUpd_mainIdle w hidle, crcStep_eq_crcAfter]
  · split
    · exact reflect16_getLsbD _ hi
    · rfl

theorem runsEach_append {is js : List Instr} {s t u : State} (h₁ : RunsEach is s t) (h₂ : RunsEach js t u) :
    RunsEach (is ++ js) s u := by
  induction is generalizing s with
  | nil =>
    cases h₁
    exact h₂
  | cons i is ih =>
    obtain ⟨v, hexec, hrest⟩ := h₁
    exact ⟨v, hexec, ih hrest⟩

/-- Updates of an idle MAIN, one after another, take the words into the register one by one. -/
theorem runsEach_ckUpd (ws : List Word) {s : State} (hidle : MainIdle s) :
    RunsEach (ws.map .ckUpd) s { s with ckAcc := ws.foldl (crcStep s.cfg) s.ckAcc } := by
  induction ws generalizing s with
  | nil => rfl
  | cons w ws ih =>
    exact ⟨_, exec_ckUpd_mainIdle w hidle, ih (s := { s with ckAcc := crcStep s.cfg s.ckAcc w }) hidle⟩

/-- Settles O34: the commands of CK.CALC leave in RESULT the fold that defines the checksum. -/
theorem ckCalcAnswersTheFrameChecksum : Obligations.CkCalcAnswersTheFrameChecksum := by
  intro s ws hidle
  let t : State := { s with ckAcc := ws.foldl (crcStep s.cfg) s.cfg.crcInit }
  have hidle' : MainIdle t := hidle
  have hupd : RunsEach (ws.map .ckUpd) { s with ckAcc := s.cfg.crcInit } t :=
    runsEach_ckUpd ws (s := { s with ckAcc := s.cfg.crcInit }) hidle
  refine ⟨{ t with result := crc16 s.cfg ws }, runsEach_append (t := t) ?_ ⟨_, exec_ckRd_mainIdle hidle', rfl⟩, rfl, rfl⟩
  exact ⟨_, exec_ckInit_mainIdle hidle, hupd⟩

/-! ### FB.BUILD (R365) -/

/-- Settles O35: each entry of the table FB.BUILD makes is the built one of its index. -/
theorem fbBuildMakesTheTable : Obligations.FbBuildMakesTheTable := by
  intro s hidle
  let t : State := { s with table := buildTable s, built := true }
  have hidle' : MainIdle t := hidle
  refine ⟨t, done_none_mainIdle .fbBuild hidle', rfl, by simp [t, buildTable, tableSize], ?_⟩
  intro idx ws hidx hws
  obtain rfl : ws = coreWords s.cfg idx := hws
  rw [entryAt_buildTable (t := t) rfl hidx, FrameBuilder.length_coreWords]
  exact buildEntry_content s.cfg idx _

end Sys2Proof.MainCommands

/-! PROOFS. The step of the block by the agent chosen (R115, R154, R252, R253, R459, R476), fair runs (R252, R476), and the invariants at
reset (R500). -/

namespace Sys2Proof.Steps

open Sys2Proof.Machine Sys2Proof.Safety

/-! ### The processor's step (R154, R459) -/

/-- Settles O4: an idle MAIN begins the next word, and a word that decodes is run by its command. -/
theorem stepRunsTheDecodedCommand : Obligations.StepRunsTheDecodedCommand := by
  intro s c rest cs i hcfg hidle hhp hlp hsched hhost hdec
  rw [Encoding.step_begins_next_command hcfg hidle hhp hlp hsched hhost]
  simp only [beginCommand, hdec]

/-- With no entry enabled and the processor next, the active context steps (R460). -/
theorem step_context {s : State} {cs : List Choice} (hcfg : s.cfg.ok = true) (hhp : hpEntry s = false)
    (hlp : lpEntry s = false) (hsched : s.sched = .proc :: cs) : step s = contextStep { s with sched := cs } := by
  rw [Interrupts.step_processor hcfg hsched]
  simp [processorStep, show hpEntry { s with sched := cs } = false from hhp,
    show lpEntry { s with sched := cs } = false from hlp]

/-- Settles O5: the active context has a command in progress, so its step is that command's. -/
theorem stepContinuesTheCommand : Obligations.StepContinuesTheCommand := by
  intro s cs i m hcfg hhp hlp hsched hpos
  have hpos' : State.pos { s with sched := cs } (active { s with sched := cs }) = .run i m := hpos
  rw [step_context hcfg hhp hlp hsched, contextStep, hpos']

/-! ### The hardware's steps (R252, R253, R476) -/

/-- The step of the agent a choice names, under a legal configuration. -/
theorem step_agent {s : State} {c : Choice} {cs : List Choice} (hcfg : s.cfg.ok = true) (hsched : s.sched = c :: cs) :
    step s = agentStep c { s with sched := cs } := by
  simp [step, hcfg, takeChoice_cons hsched]

/-- Settles O56. -/
theorem tickSetsTickf : Obligations.TickSetsTickf := by
  intro s cs hcfg hsched
  rw [step_agent hcfg hsched, agentStep, tick]
  cases h : s.intctl.tmren <;> simp

theorem loadEnabled_iff {ch : Chan} {s : State} (hpres : s.cfg.present ch = true) :
    loadEnabled ch s = true ↔ (s.chan ch).ctrl.en = true ∧ (s.chan ch).ctrl.txen = true ∧ (s.chan ch).thr.full = true ∧
      (s.chan ch).tsr.full = false := by
  simp [loadEnabled, hpres, State.ctrl, and_assoc]

/-- The shifter takes the held byte under the 9th bit in 9-bit mode (R252, R266). -/
theorem symbolToSend_eq (c : Ctrl) (d : Byte) :
    symbolToSend c d = (if c.nine = true ∧ c.tx9 = true then 0x100 else 0) ||| d.setWidth 9 := by
  have hhigh : (0x100 : Symbol) = BitVec.twoPow 9 8 := by decide
  apply BitVec.eq_of_getLsbD_eq
  intro k hk
  rw [symbolToSend, BitVec.getLsbD_append, BitVec.getLsbD_or]
  by_cases hlow : k < 8
  · cases c.nine <;> cases c.tx9 <;> simp [hhigh, hk, hlow, show k ≠ 8 by omega]
  · obtain rfl : k = 8 := by omega
    cases c.nine <;> cases c.tx9 <;> simp

theorem lineLoad_enabled {ch : Chan} {s : State} (h : loadEnabled ch s = true) :
    lineLoad ch s = s.setChan ch
      { s.chan ch with
        tsr := ⟨true, symbolToSend (s.ctrl ch) (s.chan ch).thr.data, (s.ctrl ch).nine⟩
        thr := { (s.chan ch).thr with full := false } } := by
  simp [lineLoad, h]

theorem lineLoad_disabled {ch : Chan} {s : State} (h : loadEnabled ch s = false) : lineLoad ch s = s := by
  simp [lineLoad, h]

/-- The TRACE entry of a shift: lost when a direction-controlled channel's driver is off (R253). -/
theorem shiftEvent_eq (ch : Chan) (s : State) :
    shiftEvent ch s =
      if s.cfg.hasDir ch = true ∧ (s.chan ch).ctrl.de = false then
        .lost (if (s.chan ch).tsr.nine then 9 else 8) (s.chan ch).tsr.sym
      else .tx (if (s.chan ch).tsr.nine then 9 else 8) (s.chan ch).tsr.sym := by
  cases hdir : s.cfg.hasDir ch <;> simp [shiftEvent, State.ctrl, hdir]

theorem shiftEnabled_iff {ch : Chan} {s : State} (hpres : s.cfg.present ch = true) :
    shiftEnabled ch s = true ↔ (s.chan ch).tsr.full = true := by
  simp [shiftEnabled, hpres]

theorem lineShift_enabled {ch : Chan} {s : State} (h : shiftEnabled ch s = true) :
    lineShift ch s = s.setChan ch
      { s.chan ch with
        tsr := { (s.chan ch).tsr with full := false }
        trace := (s.chan ch).trace ++ [shiftEvent ch s] } := by
  simp [lineShift, h, emptyShifter, appendTrace]

/-- Settles O26. -/
theorem lineLoadsAndShifts : Obligations.LineLoadsAndShifts := by
  intro s ch cs hcfg hpres
  have hsame := UartChannel.setChan_withSched s ch
  refine ⟨fun hsched => ?_, fun hsched => ?_⟩
  · have hen : loadEnabled ch { s with sched := cs } = true ↔ _ := loadEnabled_iff hpres
    refine (step_agent hcfg hsched).trans (congrArg Host.Outcome.next ?_)
    split
    · next h =>
      rw [lineLoad_enabled (hen.2 h), symbolToSend_eq]
      exact hsame _ cs
    · next h => exact lineLoad_disabled (by simpa using mt hen.1 h)
  · have hen : shiftEnabled ch { s with sched := cs } = true ↔ _ := shiftEnabled_iff hpres
    refine (step_agent hcfg hsched).trans (congrArg Host.Outcome.next ?_)
    split
    · next h =>
      rw [lineShift_enabled (hen.2 h), shiftEvent_eq]
      exact hsame _ cs
    · next h => simp [lineShift, mt hen.1 h]

/-! ### Fair runs (R252, R476) -/

/-- A load that is taken is enabled no longer: the byte has left THR. -/
theorem loadEnabled_lineLoad (ch : Chan) (s : State) : loadEnabled ch (lineLoad ch s) = false := by
  by_cases h : loadEnabled ch s = true
  · rw [lineLoad_enabled h]
    simp [loadEnabled]
  · rw [Bool.not_eq_true] at h
    rw [lineLoad_disabled h, h]

/-- What a step of a run does is what its chosen agent does. -/
theorem run_step {c : Nat → Choice} {σ : Nat → State} (hrun : IsRun c σ) (n : Nat) :
    agentStep (c n) { σ n with sched := [] } = .next (σ (n + 1)) :=
  (step_chosen (hrun n)).2

/-- Settles O57: a load that stays enabled is taken at some moment, by weak fairness, and is then disabled; a tick that stays enabled is
taken, and sets TICKF. -/
theorem fairRunsLoadAndTick : Obligations.FairRunsLoadAndTick := by
  intro c σ hfair
  constructor
  · intro ch n
    by_contra hnever
    push Not at hnever
    have hen : ∀ m, n ≤ m → loadEnabled ch (σ m) = true := fun m hm => by simpa using hnever m hm
    obtain ⟨m, hm, hc⟩ := hfair.load ch n hen
    have hstep := run_step hfair.run m
    rw [hc] at hstep
    have hnext : lineLoad ch { σ m with sched := [] } = σ (m + 1) := Host.Outcome.next.inj hstep
    have hoff := loadEnabled_lineLoad ch { σ m with sched := [] }
    rw [hnext, hen (m + 1) (by omega)] at hoff
    cases hoff
  · intro n htmren
    obtain ⟨m, hm, hc⟩ := hfair.tick n htmren
    refine ⟨m, hm, hc, ?_⟩
    have hstep := run_step hfair.run m
    rw [hc] at hstep
    have hnext : tick { σ m with sched := [] } = σ (m + 1) := Host.Outcome.next.inj hstep
    rw [← hnext, tick, if_pos (htmren m hm)]

/-! ### The invariants at reset (R500) -/

theorem fifoInv_resetWith {g : Cfg} (hok : g.ok = true) : FifoInv (State.resetWith g) where
  cfgOk := hok
  handlers := ⟨fun _ => rfl, nofun, fun _ => rfl, nofun, nofun⟩
  queues q := by
    have hcap := Ring.two_le_capacity hok
    rw [Reset.resetWith_fifo]
    exact ⟨show 0 < g.capacity by omega, show 0 < g.capacity by omega, rfl, nofun⟩
  positions x := FifoInvariant.posOk_none (Reset.resetWith_pos g x)

theorem seqInv_resetWith (g : Cfg) (ch : Chan) : SeqInv ch (State.resetWith g) where
  busyOwned := by
    rw [Reset.resetWith_chan]
    exact fun h => absurd rfl h
  insideBusy x w h := by
    rw [Reset.resetWith_pos] at h
    cases h

theorem receiveInv_resetWith (g : Cfg) (ch : Chan) : ReceiveInv ch (State.resetWith g) := by
  constructor <;> rw [Reset.resetWith_chan]
  · exact Nat.zero_le _
  · exact nofun
  · exact fun _ => rfl

/-- At reset the history is zero, which is not the signature. -/
theorem matcherInv_resetWith (g : Cfg) : MatcherInv (State.resetWith g) := by
  constructor
  · change (0 : BitVec 12).getLsbD 8 = signature 0 0 0
    decide
  · change (0 : BitVec 12).extractLsb' 9 3 = 0
    decide

theorem frameInv_resetWith (g : Cfg) : FrameInv (State.resetWith g) where
  size := by simp [State.resetWith, tableSize]
  words e he := by
    rw [List.eq_of_mem_replicate he]
    rfl
  content := nofun

/-- Settles O59. -/
theorem resetHasTheInvariants : Obligations.ResetHasTheInvariants := by
  intro g hok
  exact ⟨fifoInv_resetWith hok, seqInv_resetWith g, receiveInv_resetWith g, matcherInv_resetWith g, frameInv_resetWith g,
    ⟨fun _ => rfl, nofun⟩⟩

end Sys2Proof.Steps

/-! PROOFS. The FIFO commands of an idle MAIN run to their end: FQ.ENQ (R202), FQ.DEQ (R203) and FB.ENQ (R369), microstep by microstep. A
state in the middle of such a run is the idle state with one queue and MAIN's position replaced. -/

namespace Sys2Proof.FifoRuns

open Sys2Proof.Machine Sys2Proof.Safety Sys2Proof.StepCases Sys2Proof.FifoCommands Sys2Proof.Ring
  Sys2Proof.FifoInvariant

/-! ### States in the middle of a command of MAIN -/

@[simp] theorem setPos_setFifo (s : State) (x : Ctx) (p : Pos) (q : Queue) (f : Fifo) :
    (s.setPos x p).setFifo q f = (s.setFifo q f).setPos x p := by
  cases x <;> cases q <;> rfl

@[simp] theorem setFifo_setFifo (s : State) (q : Queue) (f f' : Fifo) : (s.setFifo q f).setFifo q f' = s.setFifo q f' := by
  cases q <;> rfl

/-- MAIN with its position at a microstep goes on at another one. -/
theorem goOn_setPos_main {s : State} (i : Instr) (m : Micro) (p : Pos) (hx : active s = .main) :
    goOn i m (s.setPos .main p) = s.setPos .main (.run i m) := by
  rw [goOn, active_setPos, hx, setPos_setPos]

theorem goOn_main {s : State} (i : Instr) (m : Micro) (hx : active s = .main) : goOn i m s = s.setPos .main (.run i m) := by
  rw [goOn, hx]

/-- At the end of its command MAIN is idle again, with the result. -/
theorem complete_setPos_main {s : State} (i : Instr) (res : Option Word) (p : Pos) (hidle : MainIdle s) :
    complete i res (s.setPos .main p) = { s with result := res.getD s.result } := by
  obtain ⟨hactive, hpos⟩ := hidle
  rw [complete_main i res (by rw [active_setPos, hactive]), ← hpos]
  rfl

theorem microOf_setPos_main {s : State} (i : Instr) (m : Micro) (hx : active s = .main) :
    microOf (s.setPos .main (.run i m)) = m :=
  microOf_run (x := .main) (by rw [active_setPos, hx]) (setPos_pos_same _ _ _)

/-- A run of `m` steps, then of `n` steps. -/
theorem runsTo_add {i : Instr} {m n : Nat} {s t u : State} (h₁ : RunsTo i m s t) (h₂ : RunsTo i n t u) :
    RunsTo i (m + n) s u := by
  induction m generalizing s with
  | zero =>
    cases h₁
    rwa [Nat.zero_add]
  | succ m ih =>
    obtain ⟨v, hexec, hrest⟩ := h₁
    rw [Nat.add_right_comm]
    exact ⟨v, hexec, ih hrest⟩

/-! ### FQ.ENQ and FQ.DEQ (R202, R203) -/

/-- A microstep of FQ.ENQ of the producer, by the microstep of the enqueue (R202, R206). -/
theorem exec_fqEnq_more {q : Queue} {v : Word} {s t : State} {a : EnqAt} (hrole : active s = s.cfg.prod q)
    (h : enqStep q v (enqAt (microOf s)) s = some (t, .more a)) :
    exec (.fqEnq q v) s = .next (goOn (.fqEnq q v) (.enq a) t) := by
  simp [exec, execFqEnq, hrole, h]

theorem exec_fqEnq_over {q : Queue} {v : Word} {s t : State} (hrole : active s = s.cfg.prod q)
    (h : enqStep q v (enqAt (microOf s)) s = some (t, .over)) : exec (.fqEnq q v) s = done (.fqEnq q v) none t := by
  simp [exec, execFqEnq, hrole, h]

/-- Settles O9: s1 loads the write index or finds the queue full, s2 writes the slot, s3 publishes. -/
theorem fqEnqWritesThenPublishesOrDrops : Obligations.FqEnqWritesThenPublishesOrDrops := by
  intro s q v hidle hprod
  obtain ⟨hactive, hpos⟩ := id hidle
  have hm : microOf s = .start := microOf_main_none hactive hpos
  have hrole : active s = s.cfg.prod q := by rw [hactive, hprod]
  constructor
  · intro hw hroom
    have hnext : ¬nextIndex s.cfg (s.fifo q).w = (s.fifo q).r := hroom
    let i := Instr.fqEnq q v
    let a := s.setPos .main (.run i (.enq (.s2 (s.fifo q).w v)))
    let f : Fifo := { s.fifo q with slot := (s.fifo q).slot.write (s.fifo q).w v }
    let b := (s.setFifo q f).setPos .main (.run i (.enq (.s3 (s.fifo q).w)))
    have hs1 : exec i s = .next a := by
      rw [exec_fqEnq_more hrole (t := s) (a := .s2 (s.fifo q).w v) (by simp [hm, enqAt, enqStep, hnext]), goOn_main _ _ hactive]
    have hs2 : exec i a = .next b := by
      have hma : microOf a = .enq (.s2 (s.fifo q).w v) := microOf_setPos_main _ _ hactive
      have hstep : enqStep q v (enqAt (microOf a)) a = some (a.setFifo q f, .more (.s3 (s.fifo q).w)) := by
        simp [hma, enqAt, enqStep, a, f, hw]
      rw [exec_fqEnq_more (by simp [a, hrole]) hstep]
      simp only [a, setPos_setFifo]
      rw [goOn_setPos_main _ _ _ (by rw [active_setFifo, hactive])]
    have hs3 : exec i b = .next (s.setFifo q { f with w := nextIndex s.cfg (s.fifo q).w }) := by
      have hmb : microOf b = .enq (.s3 (s.fifo q).w) := microOf_setPos_main _ _ (by rw [active_setFifo, hactive])
      have hstep : enqStep q v (enqAt (microOf b)) b =
          some (b.setFifo q { f with w := nextIndex s.cfg (s.fifo q).w }, .over) := by
        simp [hmb, enqAt, enqStep, b]
      rw [exec_fqEnq_over (by simp [b, hrole]) hstep, done]
      simp only [b, setPos_setFifo, setFifo_setFifo]
      rw [complete_setPos_main _ none _ (mainIdle_setFifo q _ hidle)]
      rfl
    exact ⟨a, b, hs1, rfl, hs2, rfl, hs3⟩
  · intro hfull
    have hnext : nextIndex s.cfg (s.fifo q).w = (s.fifo q).r := hfull
    rw [exec_fqEnq_over hrole (t := s) (by simp [hm, enqAt, enqStep, hnext])]
    exact MainCommands.done_none_mainIdle _ hidle

theorem exec_fqDeq_load {q : Queue} {s : State} (hrole : active s = s.cfg.cons q) (hm : microOf s = .start)
    (hne : (s.fifo q).r ≠ (s.fifo q).w) : exec (.fqDeq q) s = .next (goOn (.fqDeq q) (.deqS2 (s.fifo q).r) s) := by
  simp [exec, execFqDeq, hrole, hm, hne]

theorem exec_fqDeq_read {q : Queue} {s : State} {rr : Nat} (hrole : active s = s.cfg.cons q) (hm : microOf s = .deqS2 rr)
    (hrr : rr < s.cfg.capacity) :
    exec (.fqDeq q) s = .next (goOn (.fqDeq q) (.deqS3 rr ((s.fifo q).slot.read rr)) s) := by
  simp [exec, execFqDeq, hrole, hm, hrr]

theorem exec_fqDeq_take {q : Queue} {s : State} {rr : Nat} {v : Word} (hrole : active s = s.cfg.cons q)
    (hm : microOf s = .deqS3 rr v) :
    exec (.fqDeq q) s = done (.fqDeq q) (some v) (s.setFifo q { s.fifo q with r := nextIndex s.cfg rr }) := by
  simp [exec, execFqDeq, hrole, hm]

/-- The three steps of FQ.DEQ in the consumer, whatever its context: the read index and the word are loaded, then the index moves. -/
theorem runsTo_fqDeq {q : Queue} {s : State} (hrole : active s = s.cfg.cons q) (hm : microOf s = .start)
    (hr : (s.fifo q).r < s.cfg.capacity) (hne : (s.fifo q).r ≠ (s.fifo q).w) :
    RunsTo (.fqDeq q) 3 s (complete (.fqDeq q) (some ((s.fifo q).slot.read (s.fifo q).r))
      ((s.setFifo q { s.fifo q with r := nextIndex s.cfg (s.fifo q).r }).setPos (active s)
        (.run (.fqDeq q) (.deqS3 (s.fifo q).r ((s.fifo q).slot.read (s.fifo q).r))))) := by
  let a := goOn (.fqDeq q) (.deqS2 (s.fifo q).r) s
  let b := goOn (.fqDeq q) (.deqS3 (s.fifo q).r ((s.fifo q).slot.read (s.fifo q).r)) a
  have ha : exec (.fqDeq q) a = .next b := by
    rw [exec_fqDeq_read (rr := (s.fifo q).r) (by simpa [a] using hrole) (microOf_goOn _ _ _) (by simpa [a] using hr)]
    simp [a, b]
  have hb := exec_fqDeq_take (q := q) (s := b) (by simp [a, b, hrole]) (microOf_goOn _ _ _)
  refine ⟨a, exec_fqDeq_load hrole hm hne, b, ha, _, hb, ?_⟩
  simp [a, b, goOn, RunsTo]

/-- Settles O10. -/
theorem fqDeqAnswersTheOldestWordOrUnderflows : Obligations.FqDeqAnswersTheOldestWordOrUnderflows := by
  intro s q hidle hcons
  obtain ⟨hactive, hpos⟩ := id hidle
  have hm : microOf s = .start := microOf_main_none hactive hpos
  have hrole : active s = s.cfg.cons q := by rw [hactive, hcons]
  constructor
  · intro hr hne
    have hrun := runsTo_fqDeq hrole hm hr hne
    rw [hactive, complete_setPos_main _ _ _ (mainIdle_setFifo q _ hidle)] at hrun
    exact hrun
  · intro hempty
    exact MainCommands.exec_fault_mainIdle (k := .fifoUnderflow) hidle (by simp [faultOf, hrole, hm, hempty])

/-! ### FB.ENQ (R369) -/

/-- The queue after one word more (R202). -/
def pushed (g : Cfg) (f : Fifo) (v : Word) : Fifo where
  slot := f.slot.write f.w v
  r := f.r
  w := nextIndex g f.w

theorem queueInv_pushed {g : Cfg} {f : Fifo} (v : Word) (hcap : 2 ≤ g.capacity) (hinv : QueueInv g f) :
    QueueInv g (pushed g f v) :=
  queueInv_indices hinv.readIndex (nextIndex_lt f.w hcap) (queueInv_write v hinv.writeIndex hinv)

theorem count_pushed {g : Cfg} {f : Fifo} (v : Word) (hinv : QueueInv g f) (hroom : nextIndex g f.w ≠ f.r) :
    (pushed g f v).count g = f.count g + 1 :=
  count_publish (f := { f with slot := f.slot.write f.w v }) hinv.readIndex hinv.writeIndex hroom

/-- One word more is held, after those held before. -/
theorem contents_pushed {g : Cfg} {f : Fifo} (v : Word) (hinv : QueueInv g f) (hroom : nextIndex g f.w ≠ f.r) :
    (pushed g f v).contents g = f.contents g ++ [v] := by
  have hpublish := contents_publish (f := { f with slot := f.slot.write f.w v }) hinv.readIndex hinv.writeIndex hroom
  rw [contents_write hinv.readIndex hinv.writeIndex, Memory.read_write_same hinv.canonical] at hpublish
  exact hpublish

/-- The state in which FB.ENQ is about to enqueue wire word `p` on a TXQ that is `f`; past the last word the command is over. -/
def fbEnqState (s : State) (idx : BitVec 9) (f : Fifo) (p : Nat) : State :=
  if p < coreCount idx.toNat + 2 then (s.setFifo .txq f).setPos .main (.run (.fbEnq idx) (.fbEnq p .s1))
  else s.setFifo .txq f

section FbEnq

variable {s : State} {idx : BitVec 9} {f : Fifo} {p : Nat} (hidle : MainIdle s)
include hidle

/-- What follows the enqueue of wire word `p`. -/
theorem fbEnqAfter_over (r : Pos) (hp : p < coreCount idx.toNat + 2) :
    fbEnqAfter idx p .over ((s.setFifo .txq f).setPos .main r) = .next (fbEnqState s idx f (p + 1)) := by
  have hidle' := mainIdle_setFifo .txq f hidle
  unfold fbEnqAfter fbEnqState
  dsimp only
  split
  · next hlt => rw [if_pos (by omega), goOn_setPos_main _ _ _ hidle'.1]
  · next hge =>
    rw [if_neg (by omega), done, complete_setPos_main _ none _ hidle']
    rfl

/-- A step of FB.ENQ at microstep `a` of wire word `p` is that microstep of the word's enqueue. -/
theorem exec_fbEnq_at {a : EnqAt} {t : State} {n : EnqNext}
    (hstep : enqStep .txq (frameRead s idx.toNat p) a ((s.setFifo .txq f).setPos .main (.run (.fbEnq idx) (.fbEnq p a))) =
      some (t, n)) :
    exec (.fbEnq idx) ((s.setFifo .txq f).setPos .main (.run (.fbEnq idx) (.fbEnq p a))) = fbEnqAfter idx p n t := by
  have hm : microOf ((s.setFifo .txq f).setPos .main (.run (.fbEnq idx) (.fbEnq p a))) = .fbEnq p a :=
    microOf_setPos_main _ _ (mainIdle_setFifo .txq f hidle).1
  have hframe : frameRead ((s.setFifo .txq f).setPos .main (.run (.fbEnq idx) (.fbEnq p a))) idx.toNat p =
      frameRead s idx.toNat p := frameRead_of_same (by simp) _ _
  simp only [exec, execFbEnq, hm, fbEnqStep, hframe, hstep]

/-- On a full queue a wire word is dropped in one step (R202). -/
theorem fbEnq_drops (hp : p < coreCount idx.toNat + 2) (hfull : nextIndex s.cfg f.w = f.r) :
    RunsTo (.fbEnq idx) 1 (fbEnqState s idx f p) (fbEnqState s idx f (p + 1)) := by
  refine ⟨fbEnqState s idx f (p + 1), ?_, rfl⟩
  rw [fbEnqState, if_pos hp, exec_fbEnq_at hidle (n := .over) (by simp [enqStep, hfull]; rfl)]
  exact fbEnqAfter_over hidle _ hp

/-- With room a wire word is loaded, written and published in three steps (R202). -/
theorem fbEnq_accepts (hp : p < coreCount idx.toNat + 2) (hroom : nextIndex s.cfg f.w ≠ f.r) (hw : f.w < s.cfg.capacity) :
    RunsTo (.fbEnq idx) 3 (fbEnqState s idx f p)
      (fbEnqState s idx (pushed s.cfg f (frameRead s idx.toNat p)) (p + 1)) := by
  have hactive : ∀ f', active (s.setFifo .txq f') = .main := fun f' => (mainIdle_setFifo .txq f' hidle).1
  let v := frameRead s idx.toNat p
  let f₂ : Fifo := { f with slot := f.slot.write f.w v }
  let b := (s.setFifo .txq f).setPos .main (.run (.fbEnq idx) (.fbEnq p (.s2 f.w v)))
  let c := (s.setFifo .txq f₂).setPos .main (.run (.fbEnq idx) (.fbEnq p (.s3 f.w)))
  have hs1 : exec (.fbEnq idx) (fbEnqState s idx f p) = .next b := by
    rw [fbEnqState, if_pos hp, exec_fbEnq_at hidle (n := .more (.s2 f.w v)) (by simp [enqStep, hroom, v]; rfl)]
    rw [fbEnqAfter, goOn_setPos_main _ _ _ (hactive f)]
  have hs2 : exec (.fbEnq idx) b = .next c := by
    rw [exec_fbEnq_at hidle (n := .more (.s3 f.w)) (by simp [enqStep, hw]; rfl)]
    rw [fbEnqAfter, goOn_setPos_main _ _ _ (hactive f₂)]
  have hs3 : exec (.fbEnq idx) c = .next (fbEnqState s idx (pushed s.cfg f v) (p + 1)) := by
    rw [exec_fbEnq_at hidle (n := .over) (by simp [enqStep]; rfl)]
    exact fbEnqAfter_over hidle _ hp
  exact ⟨b, hs1, c, hs2, _, hs3, rfl⟩

/-- The rest of the frame on a full queue: every word is dropped and nothing changes. -/
theorem fbEnq_rest_full (hfull : nextIndex s.cfg f.w = f.r) (k : Nat) (hk : p + k = coreCount idx.toNat + 2) :
    RunsTo (.fbEnq idx) k (fbEnqState s idx f p) (s.setFifo .txq f) := by
  induction k generalizing p with
  | zero =>
    rw [fbEnqState, if_neg (by omega)]
    rfl
  | succ k ih =>
    rw [Nat.add_comm k]
    exact runsTo_add (fbEnq_drops hidle (by omega) hfull) (ih (by omega))

end FbEnq

/-- Free slots of a queue that holds `f.count` words (R33). -/
def free (g : Cfg) (f : Fifo) : Nat := g.capacity - 1 - f.count g

theorem free_eq_zero_iff {g : Cfg} {f : Fifo} (hinv : QueueInv g f) : free g f = 0 ↔ nextIndex g f.w = f.r := by
  have hlt := count_lt hinv.readIndex hinv.writeIndex
  rw [← isFull_iff, isFull_iff_count hinv.readIndex hinv.writeIndex]
  unfold free
  omega

theorem free_pushed {g : Cfg} {f : Fifo} (v : Word) (hinv : QueueInv g f) (hroom : nextIndex g f.w ≠ f.r) :
    free g (pushed g f v) = free g f - 1 := by
  rw [free, free, count_pushed v hinv hroom]
  omega

/-- The rest of the frame from wire word `p`: as many of its `k` words as there are free slots are appended, in order, in three steps
each, and each of the others is dropped in one. -/
theorem fbEnq_rest {s : State} {idx : BitVec 9} (hidle : MainIdle s) (hcap : 2 ≤ s.cfg.capacity) (k : Nat) :
    ∀ {p m : Nat} {f : Fifo}, p + k = coreCount idx.toNat + 2 → QueueInv s.cfg f → m = min k (free s.cfg f) →
      ∃ f', RunsTo (.fbEnq idx) (3 * m + (k - m)) (fbEnqState s idx f p) (s.setFifo .txq f') ∧ f'.r = f.r ∧
        f'.w = (f.w + m) % s.cfg.capacity ∧
        f'.contents s.cfg = f.contents s.cfg ++ (List.range m).map fun j => frameRead s idx.toNat (p + j) := by
  induction k with
  | zero =>
    intro p m f hp hinv hm
    obtain rfl : m = 0 := by omega
    refine ⟨f, ?_, rfl, (Nat.mod_eq_of_lt hinv.writeIndex).symm, by simp⟩
    rw [fbEnqState, if_neg (by omega)]
    rfl
  | succ k ih =>
    intro p m f hp hinv hm
    by_cases hfull : nextIndex s.cfg f.w = f.r
    · obtain rfl : m = 0 := by rw [hm, (free_eq_zero_iff hinv).2 hfull, Nat.min_zero]
      refine ⟨f, ?_, rfl, (Nat.mod_eq_of_lt hinv.writeIndex).symm, by simp⟩
      simpa using fbEnq_rest_full hidle hfull (k + 1) hp
    · have hfree : free s.cfg f ≠ 0 := mt (free_eq_zero_iff hinv).1 hfull
      let v := frameRead s idx.toNat p
      obtain ⟨f', hrun, hr, hw, hcontents⟩ := ih (p := p + 1) (m := m - 1) (f := pushed s.cfg f v) (by omega)
        (queueInv_pushed v hcap hinv) (by rw [free_pushed v hinv hfull]; omega)
      refine ⟨f', ?_, hr, ?_, ?_⟩
      · rw [show 3 * m + (k + 1 - m) = 3 + (3 * (m - 1) + (k - (m - 1))) by omega]
        exact runsTo_add (fbEnq_accepts hidle (by omega) hfull hinv.writeIndex) hrun
      · rw [hw, pushed, nextIndex, Nat.mod_add_mod]
        congr 1
        omega
      · obtain ⟨m', rfl⟩ : ∃ m', m = m' + 1 := ⟨m - 1, by omega⟩
        rw [hcontents, contents_pushed v hinv hfull, List.range_succ_eq_map, List.map_cons, List.map_map]
        simp only [Nat.add_sub_cancel, List.append_assoc, List.singleton_append, Nat.add_zero, Function.comp_def,
          Nat.succ_eq_add_one, Nat.add_assoc, Nat.add_comm 1, v]

/-- The s1 of the first word looks at no position, so FB.ENQ may be taken as begun before it. -/
theorem fbEnqStep_first {s : State} (idx : BitVec 9) (r : Pos) (hidle : MainIdle s) :
    fbEnqStep idx 0 .s1 (s.setPos .main r) =
      .next (if nextIndex s.cfg s.txq.w = s.txq.r then fbEnqState s idx s.txq 1
        else s.setPos .main (.run (.fbEnq idx) (.fbEnq 0 (.s2 s.txq.w (frameRead s idx.toNat 0))))) := by
  have hself : s.setFifo .txq s.txq = s := setFifo_self s .txq
  have hframe : frameRead (s.setPos .main r) idx.toNat 0 = frameRead s idx.toNat 0 := frameRead_of_same (by simp) _ _
  have htxq : (s.setPos .main r).fifo .txq = s.txq := setPos_fifo s .main r .txq
  have hover := fbEnqAfter_over (f := s.txq) (p := 0) (idx := idx) hidle r (by omega)
  rw [hself] at hover
  simp only [fbEnqStep, enqStep, hframe, htxq, setPos_cfg]
  by_cases hfull : nextIndex s.cfg s.txq.w = s.txq.r
  · simp only [hfull, if_true]
    exact hover
  · simp only [hfull, if_false]
    rw [fbEnqAfter, goOn_setPos_main _ _ _ hidle.1]

/-- FB.ENQ makes its checks in the step of its first word's s1 (log 5). -/
theorem exec_fbEnq_begins {s : State} {idx : BitVec 9} (hidle : MainIdle s) (hprod : s.cfg.prod .txq = .main)
    (hbuilt : s.built = true) (hidx : idx.toNat < s.cfg.maxSlots + 3) :
    exec (.fbEnq idx) s = exec (.fbEnq idx) (fbEnqState s idx s.txq 0) := by
  obtain ⟨hactive, hpos⟩ := id hidle
  have hself : s.setFifo .txq s.txq = s := setFifo_self s .txq
  have hnone : s.setPos .main .none = s := by rw [← hpos]; rfl
  have hm : microOf s = .start := microOf_main_none hactive hpos
  have hfault : fbEnqFault s idx = none := by
    simp [fbEnqFault, FrameBuilder.frameFault_built hbuilt ((indexOk_iff s idx).2 hidx), hactive, hprod]
  have hstate : fbEnqState s idx s.txq 0 = s.setPos .main (.run (.fbEnq idx) (.fbEnq 0 .s1)) := by
    rw [fbEnqState, if_pos (by omega), hself]
  calc exec (.fbEnq idx) s = fbEnqStep idx 0 .s1 (s.setPos .main .none) := by simp [exec, execFbEnq, hm, hfault, hnone]
    _ = fbEnqStep idx 0 .s1 (fbEnqState s idx s.txq 0) := by rw [hstate, fbEnqStep_first idx _ hidle, fbEnqStep_first idx _ hidle]
    _ = exec (.fbEnq idx) (fbEnqState s idx s.txq 0) := by
      simp [hstate, exec, execFbEnq, microOf_setPos_main _ _ hactive]

/-- So a run of FB.ENQ from the idle state is one from there. -/
theorem runsTo_fbEnq {s t : State} {idx : BitVec 9} {n : Nat} (hidle : MainIdle s) (hprod : s.cfg.prod .txq = .main)
    (hbuilt : s.built = true) (hidx : idx.toNat < s.cfg.maxSlots + 3) (hn : n ≠ 0)
    (h : RunsTo (.fbEnq idx) n (fbEnqState s idx s.txq 0) t) : RunsTo (.fbEnq idx) n s t := by
  obtain ⟨n, rfl⟩ := Nat.exists_eq_succ_of_ne_zero hn
  obtain ⟨u, hexec, hrest⟩ := h
  exact ⟨u, (exec_fbEnq_begins hidle hprod hbuilt hidx).trans hexec, hrest⟩

/-- Settles O39: the whole frame is the rest of it from wire word 0. -/
theorem fbEnqEnqueuesTheFrame : Obligations.FbEnqEnqueuesTheFrame := by
  intro s idx n m hidle hok hprod hinv hbuilt hidx hn hm
  have hlen : 0 + n = coreCount idx.toNat + 2 := by
    rw [hn, coreCount_of_index]
    split <;> rfl
  constructor
  · obtain ⟨f', hrun, hr, hw, hcontents⟩ := fbEnq_rest hidle (two_le_capacity hok) n hlen hinv hm
    refine ⟨s.setFifo .txq f', runsTo_fbEnq hidle hprod hbuilt hidx (by omega) hrun, rfl, hr, hw, ?_⟩
    simp only [Nat.zero_add] at hcontents
    exact hcontents
  · intro hfull
    have hrun := fbEnq_rest_full (f := s.txq) hidle hfull n hlen
    rw [show s.setFifo .txq s.txq = s from setFifo_self s .txq] at hrun
    exact runsTo_fbEnq hidle hprod hbuilt hidx (by omega) hrun

end Sys2Proof.FifoRuns

/-! PROOFS. The channel commands of spec/41_uart.md that transmit: U.INIT (R241, R242) and the transaction U.TXW phase by phase (R243 to
R247). -/

namespace Sys2Proof.UartCommands

open Sys2Proof.Machine Sys2Proof.Safety Sys2Proof.StepCases Sys2Proof.FifoCommands

/-! ### A write of CTRL, spelled out (R35, R60, R254, R263) -/

theorem ctrl_eq_of_hardwired {ch : Chan} {s : State} (hde : s.cfg.hasDir ch = false → (s.chan ch).ctrl.de = false) :
    s.ctrl ch = (s.chan ch).ctrl := by
  have hsame : ((s.chan ch).ctrl.de && s.cfg.hasDir ch) = (s.chan ch).ctrl.de := by
    cases hdir : s.cfg.hasDir ch
    · simp [hde hdir]
    · simp
  simp [State.ctrl, hsame]

/-- A write that changes neither EN, TXEN nor RXEN leaves the buffers and OERR alone; only a change of DE shows in TRACE. -/
theorem writeCtrl_no_edges {ch : Chan} {s : State} {c : Ctrl} (hen : c.en = (s.chan ch).ctrl.en)
    (htxen : c.txen = (s.chan ch).ctrl.txen) (hrxen : c.rxen = (s.chan ch).ctrl.rxen) :
    writeCtrl ch c s = s.setChan ch
      { s.chan ch with
        ctrl := { c with de := c.de && s.cfg.hasDir ch }
        trace := (s.chan ch).trace ++ (if (s.ctrl ch).de = (c.de && s.cfg.hasDir ch) then []
          else [.de (c.de && s.cfg.hasDir ch)]) } := by
  have htx : transmitterFalls (s.ctrl ch) { c with de := c.de && s.cfg.hasDir ch } = false := by
    simp [transmitterFalls, State.ctrl, hen, htxen]
  have hrx : receiverFalls (s.ctrl ch) { c with de := c.de && s.cfg.hasDir ch } = false := by
    simp [receiverFalls, State.ctrl, hrxen]
  have hsame : (s.ctrl ch).rxen = c.rxen := by simp [State.ctrl, hrxen]
  simp only [writeCtrl, htx, hrx, ctrlEvents, hsame, if_true, Bool.not_false, Bool.and_true, List.nil_append]

/-! ### The phases of a transaction (R243 to R247) -/

section Phases

variable {s : State} {ch : Chan} {word : Word}

theorem microOf_inSeq (hpos : s.pos (active s) = .run (.uTxw ch word) .inSeq) : microOf s = .inSeq :=
  microOf_run rfl hpos

/-- A phase after which the sequencer is busy is the whole step. -/
theorem exec_uTxw_phase {t : State} (hm : microOf s = .inSeq) (hphase : txwPhase ch s = some t)
    (hbusy : (t.chan ch).seq.phase ≠ .idle) : exec (.uTxw ch word) s = .next t := by
  simp [exec, execUTxw, hm, hphase, Channel.busy, hbusy]

/-- The phase that leaves it idle ends the command. -/
theorem exec_uTxw_end {t : State} (hm : microOf s = .inSeq) (hphase : txwPhase ch s = some t)
    (hidle : (t.chan ch).seq.phase = .idle) : exec (.uTxw ch word) s = done (.uTxw ch word) none t := by
  simp [exec, execUTxw, hm, hphase, Channel.busy, hidle]

theorem exec_uTxw_wait (hm : microOf s = .inSeq) (hwait : txwPhase ch s = none) : exec (.uTxw ch word) s = .next s := by
  simp [exec, execUTxw, hm, hwait]

/-- The driver is switched on a direction-controlled channel only, and TRACE shows the change (R246). -/
theorem driveEnable_eq (b : Bool) (hde : s.cfg.hasDir ch = false → (s.chan ch).ctrl.de = false) :
    driveEnable ch b s = s.setChan ch
      { s.chan ch with
        ctrl := { (s.chan ch).ctrl with de := b && s.cfg.hasDir ch }
        trace := (s.chan ch).trace ++ (if s.cfg.hasDir ch = true ∧ (s.chan ch).ctrl.de ≠ b then [.de b] else []) } := by
  unfold driveEnable
  cases hdir : s.cfg.hasDir ch with
  | false =>
    have hoff : { (s.chan ch).ctrl with de := false } = (s.chan ch).ctrl := by rw [← hde hdir]
    simp only [Bool.and_false, hoff]
    simp
    exact (setChan_self s ch).symm
  | true =>
    rw [if_pos rfl, writeCtrl_no_edges (c := { s.ctrl ch with de := b }) rfl rfl rfl, ctrl_eq_of_hardwired hde, hdir]
    by_cases hb : (s.chan ch).ctrl.de = b <;> simp [hb]

/-- TX9 is loaded, unless it is sticky and the 9th bit is 0 (R245). -/
theorem loadTx9_eq (b : Bool) (hde : s.cfg.hasDir ch = false → (s.chan ch).ctrl.de = false) :
    loadTx9 ch b s = s.setChan ch
      { s.chan ch with
        ctrl := { (s.chan ch).ctrl with tx9 := if s.cfg.tx9Sticky then (s.chan ch).ctrl.tx9 || b else b } } := by
  have hctrl := ctrl_eq_of_hardwired hde
  have hkeep : ((s.chan ch).ctrl.de && s.cfg.hasDir ch) = (s.chan ch).ctrl.de := congrArg Ctrl.de hctrl
  have hwrite : writeCtrl ch { s.ctrl ch with tx9 := b } s =
      s.setChan ch { s.chan ch with ctrl := { (s.chan ch).ctrl with tx9 := b } } := by
    rw [writeCtrl_no_edges (c := { s.ctrl ch with tx9 := b }) rfl rfl rfl, hctrl]
    simp [hkeep]
  unfold loadTx9
  rw [hwrite]
  cases hsticky : s.cfg.tx9Sticky with
  | false => simp
  | true =>
    cases b with
    | false =>
      simp only [Bool.not_false, Bool.and_true, if_true, Bool.or_false]
      exact (setChan_self s ch).symm
    | true => simp

variable (hm : microOf s = .inSeq)
include hm

theorem exec_uTxw_deOn (hde : s.cfg.hasDir ch = false → (s.chan ch).ctrl.de = false) (hphase : (s.chan ch).seq.phase = .deOn) :
    exec (.uTxw ch word) s = .next (s.setChan ch
      { s.chan ch with
        ctrl := { (s.chan ch).ctrl with de := s.cfg.hasDir ch }
        trace := (s.chan ch).trace ++ (if s.cfg.hasDir ch && !(s.chan ch).ctrl.de then [.de true] else [])
        seq := { (s.chan ch).seq with phase := .settle1 } }) := by
  have hstep : txwPhase ch s = some (setPhase ch .settle1 (driveEnable ch true s)) := by simp [txwPhase, hphase]
  rw [exec_uTxw_phase hm hstep (by simp [setPhase]), driveEnable_eq true hde]
  simp [setPhase]

theorem exec_uTxw_settle1 (hphase : (s.chan ch).seq.phase = .settle1) :
    exec (.uTxw ch word) s = .next (s.setChan ch { s.chan ch with seq := { (s.chan ch).seq with phase := .waitBuf } }) := by
  have hstep : txwPhase ch s = some (setPhase ch .waitBuf s) := by simp [txwPhase, hphase]
  exact exec_uTxw_phase hm hstep (by simp)

theorem exec_uTxw_waitBuf (hphase : (s.chan ch).seq.phase = .waitBuf) (hthr : (s.chan ch).thr.full = false) :
    exec (.uTxw ch word) s = .next (s.setChan ch { s.chan ch with seq := { (s.chan ch).seq with phase := .load9 } }) := by
  have hstep : txwPhase ch s = some (setPhase ch .load9 s) := by simp [txwPhase, hphase, Channel.txbf, hthr]
  exact exec_uTxw_phase hm hstep (by simp)

theorem exec_uTxw_load9 (hde : s.cfg.hasDir ch = false → (s.chan ch).ctrl.de = false) (hphase : (s.chan ch).seq.phase = .load9)
    (hword : (s.chan ch).seq.word = word) :
    exec (.uTxw ch word) s = .next (s.setChan ch
      { s.chan ch with
        ctrl := { (s.chan ch).ctrl with
          tx9 := if s.cfg.tx9Sticky then (s.chan ch).ctrl.tx9 || word.getLsbD 8 else word.getLsbD 8 }
        seq := { (s.chan ch).seq with phase := .load } }) := by
  have hstep : txwPhase ch s = some (setPhase ch .load (loadTx9 ch (word.getLsbD 8) s)) := by
    simp [txwPhase, hphase, hword]
  rw [exec_uTxw_phase hm hstep (by simp [setPhase]), loadTx9_eq _ hde]
  simp [setPhase]

theorem exec_uTxw_load (hphase : (s.chan ch).seq.phase = .load) (hword : (s.chan ch).seq.word = word) :
    exec (.uTxw ch word) s = .next (s.setChan ch
      { s.chan ch with
        thr := ⟨true, word.extractLsb' 0 8⟩
        seq := { (s.chan ch).seq with phase := .waitShift } }) := by
  have hstep : txwPhase ch s = some (setPhase ch .waitShift (loadHolding ch (word.extractLsb' 0 8) s)) := by
    simp only [txwPhase, hphase, hword]
  rw [exec_uTxw_phase hm hstep (by simp [setPhase])]
  simp [setPhase, loadHolding]

theorem exec_uTxw_waitShift (hphase : (s.chan ch).seq.phase = .waitShift) (hover : shiftWaitOver ch s = true) :
    exec (.uTxw ch word) s = .next (s.setChan ch { s.chan ch with seq := { (s.chan ch).seq with phase := .settle2 } }) := by
  have hstep : txwPhase ch s = some (setPhase ch .settle2 s) := by simp [txwPhase, hphase, hover]
  exact exec_uTxw_phase hm hstep (by simp)

theorem exec_uTxw_settle2 (hphase : (s.chan ch).seq.phase = .settle2) :
    exec (.uTxw ch word) s = .next (s.setChan ch { s.chan ch with seq := { (s.chan ch).seq with phase := .deOff } }) := by
  have hstep : txwPhase ch s = some (setPhase ch .deOff s) := by simp [txwPhase, hphase]
  exact exec_uTxw_phase hm hstep (by simp)

theorem exec_uTxw_deOff (hphase : (s.chan ch).seq.phase = .deOff) :
    exec (.uTxw ch word) s = done (.uTxw ch word) none (setPhase ch .idle (driveEnable ch false s)) := by
  have hstep : txwPhase ch s = some (setPhase ch .idle (driveEnable ch false s)) := by simp [txwPhase, hphase]
  exact exec_uTxw_end hm hstep (by simp [setPhase])

end Phases

/-- The last phase of a transaction leaves its channel with the driver off and the sequencer idle. -/
theorem setPhase_driveEnable_false {s : State} {ch : Chan} (hde : s.cfg.hasDir ch = false → (s.chan ch).ctrl.de = false) :
    setPhase ch .idle (driveEnable ch false s) = s.setChan ch
      { s.chan ch with
        ctrl := { (s.chan ch).ctrl with de := false }
        trace := (s.chan ch).trace ++ (if (s.chan ch).ctrl.de then [.de false] else [])
        seq := { (s.chan ch).seq with phase := .idle } } := by
  have htrace : (s.cfg.hasDir ch = true ∧ (s.chan ch).ctrl.de ≠ false) ↔ (s.chan ch).ctrl.de = true := by
    cases hdir : s.cfg.hasDir ch
    · simp [hde hdir]
    · simp
  rw [driveEnable_eq false hde]
  simp only [htrace]
  simp [setPhase]

/-- Where the context stands after the last phase: MAIN at no command, the drain at L1 (R159, R470). -/
theorem complete_uTxw {t : State} {ch : Chan} {word : Word} {p : Pos}
    (hp : active t = .main ∧ p = .none ∨ active t = .lp ∧ ch = t.cfg.txCh ∧ p = .run (.fqEmpty .txq) .start) :
    complete (.uTxw ch word) none t = t.setPos (active t) p := by
  obtain ⟨hx, rfl⟩ | ⟨hx, hch, rfl⟩ := hp
  · rw [complete_main _ _ hx, hx]
    rfl
  · rw [complete_lp_goes_on (j := .fqEmpty .txq) hx (by simp [drainNext, hch]), hx]
    rfl

/-- Settles O20. -/
theorem uTxwPhasesTakeTheirEffect : Obligations.UTxwPhasesTakeTheirEffect := by
  intro s ch word hpos hword hinv
  have hm : microOf s = .inSeq := microOf_inSeq hpos
  have hde := hinv.hardwired
  refine ⟨exec_uTxw_deOn hm hde, exec_uTxw_settle1 hm, exec_uTxw_waitBuf hm, fun h => exec_uTxw_load9 hm hde h hword,
    fun h => exec_uTxw_load hm h hword, fun h hthr htsr hen htxen => ?_, exec_uTxw_settle2 hm, fun p h hp => ?_⟩
  · exact exec_uTxw_waitShift hm h ((shiftWaitOver_iff ch s).2 ⟨hthr, htsr, hen, htxen⟩)
  · rw [exec_uTxw_deOff hm h, setPhase_driveEnable_false hde, done, complete_uTxw (p := p) (by simpa using hp), active_setChan]

/-- Settles O21: neither wait is over, so the phase has no step. -/
theorem uTxwHoldsWhileWaiting : Obligations.UTxwHoldsWhileWaiting := by
  intro s ch word hpos hwait
  refine exec_uTxw_wait (microOf_inSeq hpos) ?_
  obtain ⟨hphase, hthr⟩ | ⟨hphase, hnot⟩ := hwait
  · simp [txwPhase, hphase, Channel.txbf, hthr]
  · have hover : ¬shiftWaitOver ch s = true := by
      rw [shiftWaitOver_iff]
      rintro ⟨hthr, htsr, hen, htxen⟩
      simp [hthr, htsr, hen, htxen] at hnot
    simp [txwPhase, hphase, hover]

/-- Settles O19. -/
theorem uTxwBeginsOrIsBusy : Obligations.UTxwBeginsOrIsBusy := by
  intro s ch word hpos hpres
  have hm : microOf s = .start := by
    obtain h | h := hpos
    · exact microOf_none h
    · exact microOf_run rfl h
  constructor
  · intro hidle
    have hexec : exec (.uTxw ch word) s = .next (goOn (.uTxw ch word) .inSeq (txwBegin ch word s)) := by
      simp [exec, execUTxw, hm, onChannel, hpres, Channel.busy, hidle]
    rw [hexec, goOn, txwBegin, active_setChan]
  · intro hbusy
    have hfault : faultOf (.uTxw ch word) s = some .seqBusy := by
      simp [faultOf, hm, hpres, Channel.busy, hbusy]
    exact exec_of_faultOf hfault

/-! ### U.INIT (R241, R242) -/

theorem divisor_eq_none {g : Cfg} {baud : Word}
    (h : baud = 0 ∨ g.fClk / (16 * baud.toNat) = 0 ∨ 0xFFFF < g.fClk / (16 * baud.toNat) - 1) : divisor g baud = none := by
  unfold divisor
  split
  · rfl
  · next hbaud =>
    split
    · rfl
    · next hzero => rw [if_neg (Nat.not_le.2 ((h.resolve_left hbaud).resolve_left hzero))]

theorem divisor_eq_some {g : Cfg} {baud : Word} (hbaud : baud ≠ 0) (hlow : 1 ≤ g.fClk / (16 * baud.toNat))
    (hhigh : g.fClk / (16 * baud.toNat) - 1 ≤ 0xFFFF) :
    divisor g baud = some (BitVec.ofNat 16 (g.fClk / (16 * baud.toNat) - 1)) := by
  unfold divisor
  have hzero : ¬g.fClk / (16 * baud.toNat) = 0 := by omega
  rw [if_neg hbaud, if_neg hzero, if_pos hhigh]

/-- U.INIT's write of CTRL raises EN, TXEN and RXEN, so nothing falls with them (R241). -/
theorem writeCtrl_initCtrl (s : State) (ch : Chan) (nine intmode : Bool) (d : Word) :
    writeCtrl ch (initCtrl s.cfg nine intmode (s.ctrl ch)) (setBrg ch d s) = s.setChan ch
      { s.chan ch with
        brg := d
        ctrl :=
          { en := true, rxen := true, txen := true, nine := nine, rxie := intmode, txie := intmode
            rxip := if intmode then s.cfg.prioRx else (s.chan ch).ctrl.rxip
            txip := if intmode then s.cfg.prioTx else (s.chan ch).ctrl.txip
            de := false, tx9 := (s.chan ch).ctrl.tx9 }
        trace := (s.chan ch).trace ++ (if (s.chan ch).ctrl.rxen then [] else [.rxen true]) ++
          (if (s.chan ch).ctrl.de && s.cfg.hasDir ch then [.de false] else []) } := by
  have hctrl : (setBrg ch d s).ctrl ch = s.ctrl ch := by simp [setBrg, State.ctrl]
  have htx : ∀ c : Ctrl, c.en = true → c.txen = true → transmitterFalls (s.ctrl ch) c = false := by
    intro c hen htxen
    simp [transmitterFalls, hen, htxen]
  have hrx : ∀ c : Ctrl, c.rxen = true → receiverFalls (s.ctrl ch) c = false := by
    intro c hrxen
    simp [receiverFalls, hrxen]
  have hevents : ∀ c : Ctrl, c.rxen = true → c.de = false → ctrlEvents (s.ctrl ch) c =
      (if (s.chan ch).ctrl.rxen then [] else [.rxen true]) ++
        (if (s.chan ch).ctrl.de && s.cfg.hasDir ch then [.de false] else []) := by
    intro c hrxen hde
    cases hold : ((s.chan ch).ctrl.de && s.cfg.hasDir ch) <;> simp [ctrlEvents, State.ctrl, hrxen, hde, hold]
  simp only [writeCtrl, hctrl, initCtrl, Bool.false_and, htx, hrx, hevents, Bool.not_false, Bool.and_true]
  simp [setBrg, State.ctrl]

/-- Settles O17: the divisor is checked before the sequencer (R456). -/
theorem uInitProgramsTheChannelOrFaults : Obligations.UInitProgramsTheChannelOrFaults := by
  intro s ch nine intmode baud hidle hpres
  refine ⟨fun hbad => ?_, fun hbaud hlow hhigh => ?_⟩
  · exact MainCommands.exec_fault_mainIdle (k := .badBaud) hidle (by simp [faultOf, hpres, divisor_eq_none hbad])
  · have hd := divisor_eq_some hbaud hlow hhigh
    refine ⟨fun hbusy => ?_, fun hphase => ?_⟩
    · exact MainCommands.exec_fault_mainIdle (k := .seqBusy) hidle
        (by simp [faultOf, hpres, hd, Channel.busy, hbusy])
    · rw [← writeCtrl_initCtrl]
      have hidle' : MainIdle (writeCtrl ch (initCtrl s.cfg nine intmode (s.ctrl ch))
          (setBrg ch (BitVec.ofNat 16 (s.cfg.fClk / (16 * baud.toNat) - 1)) s)) :=
        UartChannel.mainIdle_writeCtrl ch _ (MainCommands.mainIdle_setChan ch _ hidle)
      rw [← MainCommands.done_none_mainIdle (.uInit ch nine intmode baud) hidle']
      simp [exec, execUInit, onChannel, hpres, hd, Channel.busy, hphase]

end Sys2Proof.UartCommands

/-! PROOFS. Receptions: U.RXW (R249, R263) and DSP.POLL, which feeds the demultiplexer the fault-free words (R143, R400). -/

namespace Sys2Proof.Reception

open Sys2Proof.Machine Sys2Proof.Safety Sys2Proof.StepCases

/-! ### The answered word (R142, R143, R249) -/

/-- Bit 8 of a received symbol is 0 in 8-bit mode (R249, R266; log 24). -/
theorem setWidth_symbolInMode (c : Ctrl) (y : Symbol) :
    (symbolInMode c y).setWidth 16 = if c.nine then y.setWidth 16 else y.setWidth 16 &&& (0x00FF : Word) := by
  cases h : c.nine with
  | true => simp [symbolInMode_nine h]
  | false => simp [symbolInMode_eight h, BitVec.setWidth_and]

theorem getLsbD_one_shiftLeft (b k : Nat) : ((1#16 <<< b : Word)).getLsbD k = (decide (k < 16) && decide (k = b)) := by
  obtain h | rfl | h := Nat.lt_trichotomy k b
  · simp [h, h.ne]
  · simp
  · simp [h.ne', show k - b ≠ 0 by omega]

theorem fault_bits_of_ok {g : Cfg} (hok : g.ok = true) :
    (12 ≤ g.ferrBit ∧ g.ferrBit < 16) ∧ (12 ≤ g.oerrBit ∧ g.oerrBit < 16) ∧ (12 ≤ g.nodataBit ∧ g.nodataBit < 16) ∧
      g.ferrBit ≠ g.oerrBit ∧ g.nodataBit ≠ g.ferrBit ∧ g.nodataBit ≠ g.oerrBit := by
  simp only [Cfg.ok, Cfg.faultBitsOk, Bool.and_eq_true, decide_eq_true_eq] at hok
  omega

/-- A word is fault-free exactly when its three fault bits are 0 (R143). -/
theorem faultFree_iff {g : Cfg} (hok : g.ok = true) (w : Word) :
    faultFree g w = true ↔
      w.getLsbD g.ferrBit = false ∧ w.getLsbD g.oerrBit = false ∧ w.getLsbD g.nodataBit = false := by
  obtain ⟨⟨-, hferr⟩, ⟨-, hoerr⟩, ⟨-, hnodata⟩, -⟩ := fault_bits_of_ok hok
  have hmask : ∀ k, (w &&& faultMask g).getLsbD k =
      (w.getLsbD k && (decide (k < 16) && (decide (k = g.ferrBit) || decide (k = g.oerrBit) || decide (k = g.nodataBit)))) := by
    intro k
    simp only [faultMask, BitVec.getLsbD_and, BitVec.getLsbD_or, getLsbD_one_shiftLeft, Bool.and_or_distrib_left]
  rw [faultFree, beq_iff_eq]
  constructor
  · intro h
    simp only [h] at hmask
    refine ⟨?_, ?_, ?_⟩
    · simpa [hferr] using hmask g.ferrBit
    · simpa [hoerr] using hmask g.oerrBit
    · simpa [hnodata] using hmask g.nodataBit
  · rintro ⟨hf, ho, hn⟩
    apply BitVec.eq_of_getLsbD_eq
    intro k hk
    rw [hmask]
    by_cases hw : w.getLsbD k = true
    · have hkf : k ≠ g.ferrBit := fun h => by simp [← h, hw] at hf
      have hko : k ≠ g.oerrBit := fun h => by simp [← h, hw] at ho
      have hkn : k ≠ g.nodataBit := fun h => by simp [← h, hw] at hn
      simp [hkf, hko, hkn]
    · simp [hw]

/-- The word of a reception is fault-free exactly when neither flag is in it: a symbol has no bit above bit 8 (R142, R143). -/
theorem faultFree_rxWord {g : Cfg} (hok : g.ok = true) (ferr oerr : Bool) (y : Symbol) :
    faultFree g (rxWord g ferr oerr y) = true ↔ ferr = false ∧ oerr = false := by
  obtain ⟨⟨hferrLow, hferr⟩, ⟨hoerrLow, hoerr⟩, ⟨hnodataLow, hnodata⟩, hfo, hnf, hno⟩ := fault_bits_of_ok hok
  have hflag : ∀ k, 12 ≤ k → k < 16 →
      (rxWord g ferr oerr y).getLsbD k = (ferr && decide (k = g.ferrBit) || oerr && decide (k = g.oerrBit)) := by
    intro k hlow hhigh
    have hsym : y.getLsbD k = false := BitVec.getLsbD_of_ge _ _ (by omega)
    simp only [rxWord, BitVec.getLsbD_or, BitVec.getLsbD_setWidth, hsym, Bool.and_false, Bool.or_false]
    cases ferr <;> cases oerr <;> simp only [if_true, Bool.false_eq_true, if_false, getLsbD_one_shiftLeft] <;> simp [hhigh]
  rw [faultFree_iff hok, hflag _ hferrLow hferr, hflag _ hoerrLow hoerr, hflag _ hnodataLow hnodata]
  simp [hfo, hfo.symm, hnf, hno]

theorem rxWord_symbolInMode (g : Cfg) (ferr oerr : Bool) (c : Ctrl) (y : Symbol) :
    rxWord g ferr oerr (symbolInMode c y) =
      (if ferr then 1#16 <<< g.ferrBit else 0) ||| (if oerr then 1#16 <<< g.oerrBit else 0) |||
        (if c.nine then y.setWidth 16 else y.setWidth 16 &&& (0x00FF : Word)) := by
  rw [rxWord, setWidth_symbolInMode]

/-! ### U.RXW (R249, R263) -/

theorem mainIdle_of_chanOnly {ch : Chan} {s t : State} (h : ChanOnly ch s t) (hidle : MainIdle s) : MainIdle t := by
  obtain ⟨u, rfl⟩ := h
  exact MainCommands.mainIdle_setChan ch u hidle

/-- U.RXW of an idle MAIN on a present channel changes what the reception does, and RESULT. -/
theorem exec_uRxw_mainIdle {s : State} {ch : Chan} (hidle : MainIdle s) (hpres : s.cfg.present ch = true) :
    exec (.uRxw ch) s = .next { (receiveWord ch s).2 with result := (receiveWord ch s).1 } := by
  rw [← FrameBuilder.done_some_mainIdle (.uRxw ch) _ (mainIdle_of_chanOnly (receiveWord_chanOnly ch s) hidle)]
  exact UartChannel.onChannel_present _ hpres

theorem rxAvailable_eq_false {ch : Chan} {s : State} (h : (s.chan ch).ctrl.en = false ∨ (s.chan ch).rxb = []) :
    rxAvailable ch s = false := by
  rw [← Bool.not_eq_true, UartChannel.rxAvailable_iff]
  rintro ⟨hen, hrxb⟩
  obtain h | h := h
  · simp [h] at hen
  · exact hrxb h

/-- The recovery from an overrun: RXEN falls, which clears OERR, and rises again (R249, R250, R263). -/
theorem toggleReceiver_eq {ch : Chan} {s : State} (hinv : ReceiveInv ch s) (hoerr : (s.chan ch).oerr = true) :
    toggleReceiver ch s = s.setChan ch
      { s.chan ch with oerr := false, trace := (s.chan ch).trace ++ [.rxen false, .rxen true] } := by
  have hctrl := UartChannel.ctrl_eq_stored hinv
  have hrxen : (s.chan ch).ctrl.rxen = true := hinv.overrun hoerr
  have hde : ((s.chan ch).ctrl.de && s.cfg.hasDir ch) = (s.chan ch).ctrl.de := congrArg Ctrl.de hctrl
  have hback : { (s.chan ch).ctrl with rxen := true } = (s.chan ch).ctrl := by rw [← hrxen]
  simp [toggleReceiver, writeCtrl, transmitterFalls, receiverFalls, ctrlEvents, State.ctrl, hde, hrxen]
  rw [hback]

/-- A reception takes the head entry off the buffer. -/
theorem receiveWord_rxb {ch : Chan} {s : State} {e : RxEntry} {es : List RxEntry} (h : rxAvailable ch s = true)
    (he : (s.chan ch).rxb = e :: es) : ((receiveWord ch s).2.chan ch).rxb = es := by
  rw [receiveWord_data h he]
  cases (s.chan ch).oerr <;> simp [popRx, he]

/-- Settles O25. -/
theorem uRxwReceivesTheHead : Obligations.URxwReceivesTheHead := by
  intro s ch hidle hpres hinv
  refine ⟨fun hnone => ?_, fun e es hen hrxb hoerr => ?_, fun e es hen hrxb hoerr => ?_⟩
  · rw [exec_uRxw_mainIdle hidle hpres, receiveWord_noData (rxAvailable_eq_false hnone)]
    rfl
  all_goals
    have havail : rxAvailable ch s = true := (UartChannel.rxAvailable_iff ch s).2 ⟨hen, by simp [hrxb]⟩
    rw [exec_uRxw_mainIdle hidle hpres, receiveWord_data havail hrxb, rxWord_symbolInMode, UartChannel.ctrl_eq_stored hinv]
  · simp [hoerr, popRx, hrxb]
  · simp [hoerr, popRx, hrxb, toggleReceiver_eq hinv hoerr]

/-! ### DSP.POLL (R400) -/

theorem setPos_setChan (s : State) (x : Ctx) (p : Pos) (ch : Chan) (u : Channel) :
    (s.setPos x p).setChan ch u = (s.setChan ch u).setPos x p := by
  cases x <;> cases ch <;> rfl

theorem writeCtrl_setPos (s : State) (x : Ctx) (p : Pos) (ch : Chan) (c : Ctrl) :
    writeCtrl ch c (s.setPos x p) = (writeCtrl ch c s).setPos x p := by
  simp [writeCtrl, setPos_setChan, State.ctrl]

/-- A reception looks at no position. -/
theorem receiveWord_setPos (s : State) (x : Ctx) (p : Pos) (ch : Chan) :
    receiveWord ch (s.setPos x p) = ((receiveWord ch s).1, (receiveWord ch s).2.setPos x p) := by
  have htoggle : toggleReceiver ch (s.setPos x p) = (toggleReceiver ch s).setPos x p := by
    simp [toggleReceiver, writeCtrl_setPos, State.ctrl]
  have havail : rxAvailable ch (s.setPos x p) = rxAvailable ch s := by simp [rxAvailable, State.ctrl]
  simp only [receiveWord, havail, htoggle, setPos_chan, setPos_cfg]
  split
  · split
    · rfl
    · cases (s.chan ch).oerr <;> simp [popRx, setPos_setChan, State.ctrl]
  · rfl

theorem present_rxCh_of_ok {g : Cfg} (hok : g.ok = true) : g.present g.rxCh = true := by
  simp only [Cfg.ok, Bool.and_eq_true] at hok
  simp only [hok]

section Poll

open Sys2Proof.FifoRuns

variable {s : State} (hidle : MainIdle s)
include hidle

theorem exec_dspPoll_begins (h : rxAvailable s.cfg.rxCh s = true) :
    exec .dspPoll s = .next (s.setPos .main (.run .dspPoll .pollS2)) := by
  obtain ⟨hactive, hpos⟩ := hidle
  simp [exec, execDspPoll, microOf_main_none hactive hpos, h, goOn, hactive]

theorem exec_dspPoll_noData (h : rxAvailable s.cfg.rxCh s = false) :
    exec .dspPoll s = .next { s with result := noData s.cfg } := by
  rw [← FrameBuilder.done_some_mainIdle .dspPoll _ hidle]
  obtain ⟨hactive, hpos⟩ := hidle
  simp [exec, execDspPoll, microOf_main_none hactive hpos, h]

/-- s2 with a fault-free word goes on with it. -/
theorem exec_dspPoll_receives (h : faultFree s.cfg (receiveWord s.cfg.rxCh s).1 = true) :
    exec .dspPoll (s.setPos .main (.run .dspPoll .pollS2)) =
      .next ((receiveWord s.cfg.rxCh s).2.setPos .main (.run .dspPoll (.pollS3 (receiveWord s.cfg.rxCh s).1))) := by
  have hidle' := mainIdle_of_chanOnly (receiveWord_chanOnly s.cfg.rxCh s) hidle
  simp [exec, execDspPoll, microOf_setPos_main _ _ hidle.1, receiveWord_setPos, h, goOn_setPos_main _ _ _ hidle'.1]

/-- s2 with a fault flag in the word ends the command with that word. -/
theorem exec_dspPoll_faulty (h : faultFree s.cfg (receiveWord s.cfg.rxCh s).1 = false) :
    exec .dspPoll (s.setPos .main (.run .dspPoll .pollS2)) =
      .next { (receiveWord s.cfg.rxCh s).2 with result := (receiveWord s.cfg.rxCh s).1 } := by
  have hidle' := mainIdle_of_chanOnly (receiveWord_chanOnly s.cfg.rxCh s) hidle
  simp [exec, execDspPoll, microOf_setPos_main _ _ hidle.1, receiveWord_setPos, h, done, complete_setPos_main _ _ _ hidle']

theorem exec_dspPoll_feeds (w : Word) :
    exec .dspPoll (s.setPos .main (.run .dspPoll (.pollS3 w))) = .next { s with mat := s.mat.feed w, result := w } := by
  simp only [exec, execDspPoll, microOf_setPos_main _ _ hidle.1, done]
  rw [show feed w (s.setPos .main (.run .dspPoll (.pollS3 w))) = (feed w s).setPos .main (.run .dspPoll (.pollS3 w)) from rfl,
    complete_setPos_main _ _ _ (s := feed w s) hidle]
  rfl

end Poll

/-- Settles O40. -/
theorem dspPollFeedsFaultFreeWordsOnly : Obligations.DspPollFeedsFaultFreeWordsOnly := by
  intro s hidle hok
  refine ⟨fun hnone => exec_dspPoll_noData hidle (rxAvailable_eq_false hnone), fun e es hen hrxb hoerr hferr w hw => ?_,
    fun e es hen hrxb hfault => ?_⟩
  all_goals
    have havail : rxAvailable s.cfg.rxCh s = true := (UartChannel.rxAvailable_iff _ s).2 ⟨hen, by simp [hrxb]⟩
    have hreceive := receiveWord_data havail hrxb
  · have hfree : faultFree s.cfg (receiveWord s.cfg.rxCh s).1 = true := by
      rw [hreceive, faultFree_rxWord hok]
      exact ⟨hferr, hoerr⟩
    refine ⟨_, exec_dspPoll_begins hidle havail, _, exec_dspPoll_receives hidle hfree, _, 
      exec_dspPoll_feeds (mainIdle_of_chanOnly (receiveWord_chanOnly _ s) hidle) _, ?_⟩
    simp [RunsTo, hreceive, hoerr, hferr, popRx, hrxb, rxWord_symbolInMode, State.ctrl, hw]
  · have hfaulty : faultFree s.cfg (receiveWord s.cfg.rxCh s).1 = false := by
      rw [← Bool.not_eq_true, hreceive, faultFree_rxWord hok]
      rintro ⟨hferr, hoerr⟩
      simp [hferr, hoerr] at hfault
    refine ⟨_, ⟨_, exec_dspPoll_begins hidle havail, _, exec_dspPoll_faulty hidle hfaulty, rfl⟩,
      exec_uRxw_mainIdle hidle (present_rxCh_of_ok hok), ?_, ?_, ?_⟩
    · obtain ⟨u, hu⟩ := receiveWord_chanOnly s.cfg.rxCh s
      simp [hu]
    · exact receiveWord_rxb havail hrxb
    · simp [hreceive, rxWord_symbolInMode, State.ctrl]

end Sys2Proof.Reception

/-! PROOFS. Two runs of U.TXW: the low-priority drain, which takes each word of TXQ to it (R470, R471), and a transaction of MAIN from its
word to the last DE edge (R243, R252, R253). -/

namespace Sys2Proof.Transactions

open Sys2Proof.Machine Sys2Proof.Safety Sys2Proof.StepCases Sys2Proof.FifoCommands Sys2Proof.UartCommands

/-! ### The low-priority drain (R470, R471) -/

/-- FQ.EMPTY of TXQ in two steps, whatever its context. -/
theorem runsTo_fqEmpty_txq {s : State} (hm : microOf s = .start) :
    RunsTo (.fqEmpty .txq) 2 s
      (complete (.fqEmpty .txq) (some (boolWord (s.txq.r == s.txq.w))) (goOn (.fqEmpty .txq) (.queryS2 s.txq.r) s)) := by
  have hs2 := exec_fqEmpty_s2 .txq (microOf_goOn (.fqEmpty .txq) (.queryS2 s.txq.r) s)
  rw [goOn_fifo] at hs2
  exact ⟨_, exec_fqEmpty_s1 .txq hm, _, hs2, rfl⟩

section Drain

variable {s : State} (hlp : active s = .lp)
include hlp

theorem pos_lp {p : Pos} (hpos : s.posLp = p) : s.pos (active s) = p := by
  rw [hlp]
  exact hpos

theorem drain_returns (hpos : s.posLp = .run (.fqEmpty .txq) .start) (hempty : s.txq.r = s.txq.w) :
    RunsTo (.fqEmpty .txq) 2 s { s with posLp := .none, intctl := { s.intctl with inlp := false } } := by
  have hrun := runsTo_fqEmpty_txq (microOf_run rfl (pos_lp hlp hpos))
  rw [complete_lp_returns (by simpa using hlp) (by simp [drainNext, boolWord, hempty])] at hrun
  simpa [leave, goOn, hlp, State.setPos] using hrun

theorem drain_takes (hpos : s.posLp = .run (.fqEmpty .txq) .start) (hne : s.txq.r ≠ s.txq.w) :
    RunsTo (.fqEmpty .txq) 2 s { s with posLp := .run (.fqDeq .txq) .start } := by
  have hrun := runsTo_fqEmpty_txq (microOf_run rfl (pos_lp hlp hpos))
  rw [complete_lp_goes_on (j := .fqDeq .txq) (by simpa using hlp) (by simp [drainNext, boolWord, hne])] at hrun
  simpa [goOn, hlp, State.setPos] using hrun

theorem drain_transmits (hpos : s.posLp = .run (.fqDeq .txq) .start) (hcons : s.cfg.cons .txq = .lp)
    (hr : s.txq.r < s.cfg.capacity) (hne : s.txq.r ≠ s.txq.w) :
    RunsTo (.fqDeq .txq) 3 s { s with
      txq := { s.txq with r := (s.txq.r + 1) % s.cfg.capacity }
      posLp := .run (.uTxw s.cfg.txCh (s.txq.slot.read s.txq.r)) .start } := by
  have hrun := FifoRuns.runsTo_fqDeq (q := .txq) (hlp.trans hcons.symm) (microOf_run rfl (pos_lp hlp hpos)) hr hne
  rw [complete_lp_goes_on (j := .uTxw s.cfg.txCh (s.txq.slot.read s.txq.r)) (by simpa using hlp) (by simp [drainNext]; rfl)] at hrun
  simpa [hlp, State.setPos, State.setFifo, State.fifo, nextIndex] using hrun

/-- The last phase of L3 goes back to L1; only the channel and POS[LP] change (R470). -/
theorem drain_goes_back {w : Word} (hpos : s.posLp = .run (.uTxw s.cfg.txCh w) .inSeq)
    (hphase : (s.chan s.cfg.txCh).seq.phase = .deOff) :
    ∃ t, exec (.uTxw s.cfg.txCh w) s = .next t ∧ t.posLp = .run (.fqEmpty .txq) .start ∧ t.result = s.result ∧
      (t.chan s.cfg.txCh).seq.phase = .idle := by
  have hm : microOf s = .inSeq := microOf_inSeq (pos_lp hlp hpos)
  obtain ⟨u, hu⟩ := driveEnable_chanOnly s.cfg.txCh false s
  let t := setPhase s.cfg.txCh .idle (driveEnable s.cfg.txCh false s)
  have hexec : exec (.uTxw s.cfg.txCh w) s = .next { t with posLp := .run (.fqEmpty .txq) .start } := by
    rw [exec_uTxw_deOff hm hphase, done,
      complete_lp_goes_on (j := .fqEmpty .txq) (by simp [setPhase, hu, hlp]) (by simp [drainNext, setPhase, hu])]
  have hidle : (t.chan s.cfg.txCh).seq.phase = .idle := by simp [t, setPhase]
  exact ⟨_, hexec, rfl, by simp [t, setPhase, hu], hidle⟩

theorem drain_finds_busy {w : Word} (hpos : s.posLp = .run (.uTxw s.cfg.txCh w) .start)
    (hpres : s.cfg.present s.cfg.txCh = true) (hbusy : (s.chan s.cfg.txCh).seq.phase ≠ .idle) :
    exec (.uTxw s.cfg.txCh w) s = .next
      { s with
        posLp := .none
        intctl := { s.intctl with inlp := false }
        err := ⟨if s.err.faulted then s.err.code else 0x08, true⟩ } := by
  have hm : microOf s = .start := microOf_run rfl (pos_lp hlp hpos)
  have hfault : faultOf (.uTxw s.cfg.txCh w) s = some .seqBusy := by
    simp [faultOf, hm, hpres, Channel.busy, hbusy]
  rw [exec_of_faultOf hfault, raised, raiseFault, hlp]
  rfl

end Drain

/-- Settles O54. -/
theorem lpDrainFollowsItsSteps : Obligations.LpDrainFollowsItsSteps := fun _ hlp =>
  ⟨drain_returns hlp, drain_takes hlp, drain_transmits hlp, fun _ => drain_goes_back hlp, fun _ => drain_finds_busy hlp⟩

/-! ### A transaction of MAIN as a whole (R243, R252, R253) -/

theorem run_of_step {s t : State} {r : Out} {k : Nat} (hstep : step s = .next t) (hrun : Sys2Proof.core.run k t = r) :
    Sys2Proof.core.run (k + 1) s = r := by
  have hcore : Sys2Proof.core.step s = .next t := hstep
  simp only [Host.Core.run, hcore]
  exact hrun

/-- `s` in the middle of MAIN's U.TXW: its channel is `u`, and `cs` are the choices to come. -/
def inFlight (s : State) (ch : Chan) (word : Word) (rest : List Command) (u : Channel) (cs : List Choice) : State :=
  { s.setChan ch u with host := rest, sched := cs, posMain := .run (.uTxw ch word) .inSeq }

section InFlight

variable {s : State} {ch : Chan} {word : Word} {rest : List Command} {u : Channel} {cs : List Choice}

@[simp] theorem inFlight_chan : (inFlight s ch word rest u cs).chan ch = u := by
  cases ch <;> rfl

theorem inFlight_setChan (u' : Channel) :
    (inFlight s ch word rest u cs).setChan ch u' = inFlight s ch word rest u' cs := by
  cases ch <;> rfl

@[simp] theorem inFlight_cfg : (inFlight s ch word rest u cs).cfg = s.cfg := by
  simp [inFlight]

@[simp] theorem active_inFlight : active (inFlight s ch word rest u cs) = active s := by
  simp [inFlight, active]

theorem microOf_inFlight (hactive : active s = .main) : microOf (inFlight s ch word rest u cs) = .inSeq :=
  microOf_run (x := .main) (by rw [active_inFlight, hactive]) rfl

theorem inFlight_ctrl : (inFlight s ch word rest u cs).ctrl ch = { u.ctrl with de := u.ctrl.de && s.cfg.hasDir ch } := by
  simp [State.ctrl]

variable (hok : s.cfg.ok = true)
include hok

/-- The step that begins it: the host's word is decoded, and the sequencer takes MAIN as its owner (R154, R243). -/
theorem step_begins_uTxw (hpres : s.cfg.present ch = true) (hidle : MainIdle s) (hgieh : s.intctl.gieh = false)
    (hhost : s.host = encode (.uTxw ch word) :: rest) (hphase : (s.chan ch).seq.phase = .idle)
    (hsched : s.sched = .proc :: cs) :
    step s = .next (inFlight s ch word rest { s.chan ch with seq := ⟨.deOn, word, .main⟩ } cs) := by
  obtain ⟨hactive, hpos⟩ := id hidle
  rw [Steps.stepRunsTheDecodedCommand s _ rest cs _ hok hidle (by simp [hpEntry, hgieh]) (by simp [lpEntry, hgieh]) hsched hhost
    (DecodeEncode.decode_encode _)]
  have hnone : State.pos { s with sched := cs, host := rest } (active { s with sched := cs, host := rest }) = .none := by
    rw [show active { s with sched := cs, host := rest } = .main from hactive]
    exact hpos
  rw [(uTxwBeginsOrIsBusy { s with sched := cs, host := rest } ch word (.inl hnone) hpres).1 hphase,
    show active { s with sched := cs, host := rest } = .main from hactive]
  cases ch <;> rfl

/-- With the interrupts off, the processor's step is the transaction's. -/
theorem step_inFlight (hactive : active s = .main) (hgieh : s.intctl.gieh = false) :
    step (inFlight s ch word rest u (.proc :: cs)) = exec (.uTxw ch word) (inFlight s ch word rest u cs) := by
  refine Steps.stepContinuesTheCommand (inFlight s ch word rest u (.proc :: cs)) cs _ .inSeq (by simpa using hok) ?_ ?_ rfl ?_
  · simp [hpEntry, inFlight, hgieh]
  · simp [lpEntry, inFlight, hgieh]
  · rw [active_inFlight, hactive]
    rfl

theorem step_inFlight_phase {u' : Channel} (hactive : active s = .main) (hgieh : s.intctl.gieh = false)
    (hexec : ∀ t, microOf t = .inSeq → t.cfg = s.cfg → t.chan ch = u → exec (.uTxw ch word) t = .next (t.setChan ch u')) :
    step (inFlight s ch word rest u (.proc :: cs)) = .next (inFlight s ch word rest u' cs) := by
  rw [step_inFlight hok hactive hgieh, hexec _ (microOf_inFlight hactive) inFlight_cfg inFlight_chan, inFlight_setChan]

theorem step_inFlight_load (hpres : s.cfg.present ch = true) (hen : u.ctrl.en = true) (htxen : u.ctrl.txen = true)
    (hthr : u.thr.full = true) (htsr : u.tsr.full = false) :
    step (inFlight s ch word rest u (.load ch :: cs)) = .next (inFlight s ch word rest
      { u with tsr := ⟨true, symbolToSend u.ctrl u.thr.data, u.ctrl.nine⟩, thr := { u.thr with full := false } } cs) := by
  have hload : loadEnabled ch (inFlight s ch word rest u cs) = true :=
    (Steps.loadEnabled_iff (by simpa using hpres)).2 (by simp [hen, htxen, hthr, htsr])
  rw [Steps.step_agent (by simpa using hok) rfl]
  calc agentStep (.load ch) (inFlight s ch word rest u cs) = .next (lineLoad ch (inFlight s ch word rest u cs)) := rfl
    _ = _ := by rw [Steps.lineLoad_enabled hload, inFlight_setChan, inFlight_chan, inFlight_ctrl]; rfl

theorem step_inFlight_shift (hpres : s.cfg.present ch = true) (hde : u.ctrl.de = s.cfg.hasDir ch)
    (htsr : u.tsr.full = true) :
    step (inFlight s ch word rest u (.shift ch :: cs)) = .next (inFlight s ch word rest
      { u with
        tsr := { u.tsr with full := false }
        trace := u.trace ++ [.tx (if u.tsr.nine then 9 else 8) u.tsr.sym] } cs) := by
  have hshift : shiftEnabled ch (inFlight s ch word rest u cs) = true :=
    (Steps.shiftEnabled_iff (by simpa using hpres)).2 (by simpa using htsr)
  have hdriven : ¬(s.cfg.hasDir ch = true ∧ s.cfg.hasDir ch = false) := by simp
  rw [Steps.step_agent (by simpa using hok) rfl]
  calc agentStep (.shift ch) (inFlight s ch word rest u cs) = .next (lineShift ch (inFlight s ch word rest u cs)) := rfl
    _ = _ := by
      rw [Steps.lineShift_enabled hshift, Steps.shiftEvent_eq, inFlight_setChan, inFlight_chan, inFlight_cfg, hde,
        if_neg hdriven]

end InFlight

/-- The symbol sent is the word's low nine bits, or eight of them in 8-bit mode (R245, R252, R266). -/
theorem symbolToSend_of_word {c : Ctrl} {word : Word} (htx9 : c.tx9 = word.getLsbD 8) :
    symbolToSend c (word.extractLsb' 0 8) =
      if c.nine then word.extractLsb' 0 9 else word.extractLsb' 0 9 &&& 0x0FF := by
  have hmask : ∀ k < 9, (0x0FF : Symbol).getLsbD k = decide (k < 8) := by decide
  apply BitVec.eq_of_getLsbD_eq
  intro k hk
  rw [symbolToSend, BitVec.getLsbD_append, htx9, apply_ite (BitVec.getLsbD · k), BitVec.getLsbD_and, hmask k hk]
  by_cases hlow : k < 8
  · cases c.nine <;> simp [hk, hlow]
  · obtain rfl : k = 8 := by omega
    cases c.nine <;> simp

/-! The channel `u` while its transaction goes on, where `d` says that the channel has a driver (R243). -/

/-- The driver is on, and TRACE shows it. -/
def driven (u : Channel) (d : Bool) (word : Word) (p : Phase) : Channel :=
  { u with
    ctrl := { u.ctrl with de := d }
    trace := u.trace ++ (if d then [.de true] else [])
    seq := ⟨p, word, .main⟩ }

/-- The word's 9th bit is in TX9. -/
def ninthLoaded (u : Channel) (d : Bool) (word : Word) (p : Phase) : Channel :=
  { driven u d word p with ctrl := { u.ctrl with de := d, tx9 := word.getLsbD 8 } }

/-- Its low byte is in THR. -/
def held (u : Channel) (d : Bool) (word : Word) : Channel :=
  { ninthLoaded u d word .waitShift with thr := ⟨true, word.extractLsb' 0 8⟩ }

/-- The symbol the channel sends. -/
def symbolSent (u : Channel) (word : Word) : Symbol :=
  if u.ctrl.nine then word.extractLsb' 0 9 else word.extractLsb' 0 9 &&& 0x0FF

/-- The symbol is in the shifter. -/
def shifting (u : Channel) (d : Bool) (word : Word) : Channel :=
  { ninthLoaded u d word .waitShift with
    thr := ⟨false, word.extractLsb' 0 8⟩
    tsr := ⟨true, symbolSent u word, u.ctrl.nine⟩ }

/-- The symbol is on the bus. -/
def shifted (u : Channel) (d : Bool) (word : Word) (p : Phase) : Channel :=
  { ninthLoaded u d word p with
    thr := ⟨false, word.extractLsb' 0 8⟩
    tsr := ⟨false, symbolSent u word, u.ctrl.nine⟩
    trace := u.trace ++ (if d then [.de true] else []) ++ [.tx (if u.ctrl.nine then 9 else 8) (symbolSent u word)] }

/-- The symbol is sent and the driver is off. -/
def sent (u : Channel) (d : Bool) (word : Word) : Channel :=
  { shifted u d word .idle with
    ctrl := { u.ctrl with de := false, tx9 := word.getLsbD 8 }
    trace := (shifted u d word .idle).trace ++ (if d then [.de false] else []) }

section Whole

variable {s : State} {ch : Chan} {word : Word} {rest : List Command} {u : Channel} {cs : List Choice}
  (hok : s.cfg.ok = true) (hactive : active s = .main) (hgieh : s.intctl.gieh = false)
include hok hactive hgieh

theorem step_driven (hde : u.ctrl.de = false) :
    step (inFlight s ch word rest { u with seq := ⟨.deOn, word, .main⟩ } (.proc :: cs)) =
      .next (inFlight s ch word rest (driven u (s.cfg.hasDir ch) word .settle1) cs) :=
  step_inFlight_phase hok hactive hgieh fun t hm hcfg hu => by
    rw [exec_uTxw_deOn hm (by simp [hu, hde]) (by rw [hu])]
    simp [hu, hcfg, driven, hde]

theorem step_settle1 :
    step (inFlight s ch word rest (driven u (s.cfg.hasDir ch) word .settle1) (.proc :: cs)) =
      .next (inFlight s ch word rest (driven u (s.cfg.hasDir ch) word .waitBuf) cs) :=
  step_inFlight_phase hok hactive hgieh fun t hm _ hu => by
    rw [exec_uTxw_settle1 hm (by rw [hu]; rfl), hu]
    rfl

theorem step_waitBuf (hthr : u.thr.full = false) :
    step (inFlight s ch word rest (driven u (s.cfg.hasDir ch) word .waitBuf) (.proc :: cs)) =
      .next (inFlight s ch word rest (driven u (s.cfg.hasDir ch) word .load9) cs) :=
  step_inFlight_phase hok hactive hgieh fun t hm _ hu => by
    rw [exec_uTxw_waitBuf hm (by rw [hu]; rfl) (by rw [hu]; exact hthr), hu]
    rfl

theorem step_load9 (hsticky : s.cfg.tx9Sticky = false) :
    step (inFlight s ch word rest (driven u (s.cfg.hasDir ch) word .load9) (.proc :: cs)) =
      .next (inFlight s ch word rest (ninthLoaded u (s.cfg.hasDir ch) word .load) cs) :=
  step_inFlight_phase hok hactive hgieh fun t hm hcfg hu => by
    rw [exec_uTxw_load9 hm (by rw [hu, hcfg]; exact id) (by rw [hu]; rfl) (by rw [hu]; rfl), hu, hcfg, hsticky]
    rfl

theorem step_load :
    step (inFlight s ch word rest (ninthLoaded u (s.cfg.hasDir ch) word .load) (.proc :: cs)) =
      .next (inFlight s ch word rest (held u (s.cfg.hasDir ch) word) cs) :=
  step_inFlight_phase hok hactive hgieh fun t hm _ hu => by
    rw [exec_uTxw_load hm (by rw [hu]; rfl) (by rw [hu]; rfl), hu]
    rfl

theorem step_waitShift (hen : u.ctrl.en = true) (htxen : u.ctrl.txen = true) :
    step (inFlight s ch word rest (shifted u (s.cfg.hasDir ch) word .waitShift) (.proc :: cs)) =
      .next (inFlight s ch word rest (shifted u (s.cfg.hasDir ch) word .settle2) cs) :=
  step_inFlight_phase hok hactive hgieh fun t hm _ hu => by
    have hover : shiftWaitOver ch t = true :=
      (shiftWaitOver_iff ch t).2 (by rw [hu]; exact ⟨rfl, rfl, hen, htxen⟩)
    rw [exec_uTxw_waitShift hm (by rw [hu]; rfl) hover, hu]
    rfl

theorem step_settle2 :
    step (inFlight s ch word rest (shifted u (s.cfg.hasDir ch) word .settle2) (.proc :: cs)) =
      .next (inFlight s ch word rest (shifted u (s.cfg.hasDir ch) word .deOff) cs) :=
  step_inFlight_phase hok hactive hgieh fun t hm _ hu => by
    rw [exec_uTxw_settle2 hm (by rw [hu]; rfl), hu]
    rfl

/-- The last phase ends the command: MAIN has no position, and the channel is back at rest. -/
theorem step_deOff :
    step (inFlight s ch word rest (shifted u (s.cfg.hasDir ch) word .deOff) (.proc :: cs)) =
      .next { s.setChan ch (sent u (s.cfg.hasDir ch) word) with host := rest, sched := cs, posMain := .none } := by
  let t := inFlight s ch word rest (shifted u (s.cfg.hasDir ch) word .deOff) cs
  have hu : t.chan ch = shifted u (s.cfg.hasDir ch) word .deOff := inFlight_chan
  have hcfg : t.cfg = s.cfg := inFlight_cfg
  have hx : active t = .main := by rw [active_inFlight, hactive]
  have hde : t.cfg.hasDir ch = false → (t.chan ch).ctrl.de = false := by
    rw [hu, hcfg]
    exact id
  rw [step_inFlight hok hactive hgieh, exec_uTxw_deOff (microOf_inFlight hactive) (by rw [hu]; rfl),
    setPhase_driveEnable_false hde, done, complete_uTxw (p := .none) (.inl ⟨by rw [active_setChan, hx], rfl⟩), active_setChan,
    hx, hu, inFlight_setChan]
  rfl

end Whole

section Line

variable {s : State} {ch : Chan} {word : Word} {rest : List Command} {u : Channel} {cs : List Choice}
  (hok : s.cfg.ok = true) (hpres : s.cfg.present ch = true)
include hok hpres

theorem step_takes_byte (hen : u.ctrl.en = true) (htxen : u.ctrl.txen = true) (htsr : u.tsr.full = false) :
    step (inFlight s ch word rest (held u (s.cfg.hasDir ch) word) (.load ch :: cs)) =
      .next (inFlight s ch word rest (shifting u (s.cfg.hasDir ch) word) cs) := by
  rw [step_inFlight_load hok hpres (by exact hen) (by exact htxen) rfl (by exact htsr)]
  have hsym := symbolToSend_of_word (c := (held u (s.cfg.hasDir ch) word).ctrl) (word := word) rfl
  simp only [held] at hsym ⊢
  rw [hsym]
  rfl

theorem step_shifts_symbol :
    step (inFlight s ch word rest (shifting u (s.cfg.hasDir ch) word) (.shift ch :: cs)) =
      .next (inFlight s ch word rest (shifted u (s.cfg.hasDir ch) word .waitShift) cs) := by
  rw [step_inFlight_shift hok hpres rfl rfl]
  rfl

end Line

/-- Settles O22: the eleven steps, each with the channel it leaves. -/
theorem uTxwSendsItsSymbol : Obligations.UTxwSendsItsSymbol := by
  intro s ch word rest hok hpres hidle hhost hgieh hsticky hen htxen hde hphase hthr htsr hsched
  have hactive := hidle.1
  let t : State :=
    { s.setChan ch (sent (s.chan ch) (s.cfg.hasDir ch) word) with host := rest, sched := [], posMain := .none }
  have hrun : Sys2Proof.core.run 11 s = .next t :=
    run_of_step (step_begins_uTxw hok hpres hidle hgieh hhost hphase hsched) <|
    run_of_step (step_driven hok hactive hgieh hde) <|
    run_of_step (step_settle1 hok hactive hgieh) <|
    run_of_step (step_waitBuf hok hactive hgieh hthr) <|
    run_of_step (step_load9 hok hactive hgieh hsticky) <|
    run_of_step (step_load hok hactive hgieh) <|
    run_of_step (step_takes_byte hok hpres hen htxen htsr) <|
    run_of_step (step_shifts_symbol hok hpres) <|
    run_of_step (step_waitShift hok hactive hgieh hen htxen) <|
    run_of_step (step_settle2 hok hactive hgieh) <|
    run_of_step (step_deOff hok hactive hgieh) rfl
  have hsent : t.chan ch = sent (s.chan ch) (s.cfg.hasDir ch) word := setChan_chan_same s ch _
  refine ⟨t, hrun, rfl, rfl, ?_, setChan_result s ch _, setChan_err s ch _, ?_, ?_⟩
  · exact congrArg (fun u => u.seq.phase) hsent
  · exact (congrArg Channel.rxb hsent).trans rfl
  · refine (congrArg Channel.trace hsent).trans ?_
    cases hnine : (s.chan ch).ctrl.nine <;> simp [sent, shifted, symbolSent, hnine]

end Sys2Proof.Transactions
